-- ==== Sys2Proof/Word.lean ====
section
/-! DEFINITION. The block's two word widths (00_scope.md R6): the stream byte of `W` = 8 bits and the 16-bit
operation and status word (`OW` = `SW` = 16); and a message, an ordered sequence of bytes (R10). -/

namespace Sys2Proof

/-- `W`, the width of one stream byte (R6). -/
abbrev byteWidth : Nat := 8

/-- `OW` and `SW`, the width of an operation word and of the STATUS word (R6). -/
abbrev wordWidth : Nat := 16

/-- One byte of the stream, an opaque 8-bit value (20_memory.md R53). -/
abbrev Byte := BitVec 8

/-- An operation word (30_encoding.md R70) or a STATUS word (10_state.md R28). -/
abbrev Word := BitVec 16

/-- A message: bytes in arrival order, byte 0 first (20_memory.md R52). -/
abbrev Message := List Byte

end Sys2Proof
end

