-- ==== Sys2Proof/Config.lean ====
section
/-! DEFINITION. What an instance fixes (00_scope.md R6, 10_state.md R33): the capacity and the terminator; and the free
values of the two output ports the spec leaves unspecified (10_state.md R29). Configuration is not state. -/

namespace Sys2Proof

/-- The parameters of one instance (R6): "A model takes each one as an argument (a configuration field)". -/
structure Config where
  /-- `CAP`, the maximum number of pending unterminated bytes. -/
  cap : Nat
  /-- `TERM`, the terminator byte value. -/
  term : Byte
deriving DecidableEq, Repr

/-- This hardware's parameters (R6): `CAP` = 100, `TERM` = 0xFF. -/
def Config.hw : Config := { cap := 100, term := 0xFF#8 }

/-- `MSG_MAX`, the longest message the block can emit: `CAP + 1` bytes (R6). -/
def Config.msgMax (c : Config) : Nat := c.cap + 1

/-- FREE VALUE (R29, notes/assumptions/7.md): what `out_len` shows at sample `t` while the slot is empty. -/
opaque Config.undrivenLen : Nat → BitVec 8

/-- FREE VALUE (R29, notes/assumptions/7.md): what lane `i` of `out_data` shows at sample `t` where no message byte drives it. -/
opaque Config.undrivenLane : Nat → Nat → Byte

end Sys2Proof
end

