-- ==== Sys2Proof/Syntax.lean ====
section
/-! DEFINITION. The operations of the block, one constructor per row of spec/opcode_table.json (30_encoding.md R72), and the
assembler's source lines (R76, R77) with the command frames of 45_frame_formats.md. -/

namespace Sys2Proof

/-- The block's five operations (R72). -/
inductive Instr where
  /-- NOP, an idle interval on the interface (41_control.md R133). -/
  | nop
  /-- FEED: the source hands over one byte (40_framing.md R100). -/
  | feed (b : Byte)
  /-- TAKE: the sink takes the waiting message (40_framing.md R107). -/
  | take
  /-- RESET (41_control.md R131). -/
  | reset
  /-- STATUS: read the status word (41_control.md R132). -/
  | status
deriving DecidableEq, Repr

/-- The parameter fields of a command frame (45_frame_formats.md R151), in the order in which R152 reports them. -/
inductive Field where
  | address | panSpeed | tiltSpeed | zoomSpeed | presetIndex
deriving DecidableEq, Repr

/-- The kinds of frame that `FRAME` refuses by name (R163): the seven whose layout the source does not give
(R156, R157) and every kind the rules do not list. -/
inductive RefusedKind where
  | down | left | right | upLeft | upRight | downLeft | downRight
  | unlisted (name : String)
deriving DecidableEq, Repr

/-- One command frame as `FRAME <Kind>(<args>)` names it (R155 to R162); arguments are unsigned integers of any size. -/
inductive Command where
  | up (a panSpeed : Nat)
  | stopPanTilt (a : Nat)
  | zoomIn (a zoomSpeed : Nat)
  | zoomOut (a zoomSpeed : Nat)
  | stopZoom (a : Nat)
  | storePreset (a presetIndex : Nat)
  | recallPreset (a presetIndex : Nat)
  | powerOn (a : Nat)
  | powerOff (a : Nat)
  | powerInquiry (a : Nat)
  | noLayout (kind : RefusedKind) (args : List Nat)
deriving DecidableEq, Repr

/-- One line of assembler source (R76, R77). A byte operand is a number of any size until the assembler has checked it. -/
inductive Line where
  | blank
  | nop
  | feed (b : Nat)
  | take
  | reset
  | status
  | feeds (bs : List Nat)
  | frame (cmd : Command)
deriving DecidableEq, Repr

end Sys2Proof
end

