-- ==== Sys2Proof/Machine/State.lean ====
section
/-! DEFINITION. The state of one FrameAssembler (10_state.md R22), the events of its history (R30), the results of its
operations (30_encoding.md R75), the issuers' operation words (10_state.md R21), and the reasons a step can stop. The block has
no addressable memory (20_memory.md R50, R51, R57), so State holds none (notes/assumptions/9.md). -/

namespace Sys2Proof.Machine

/-- An observable event (R30). -/
inductive Event where
  /-- `In(b)`: FEED accepted byte `b`, in whatever state. -/
  | input (b : Byte)
  /-- `Msg(m)`: the sink took message `m`. -/
  | msg (m : Message)
  /-- `Overflow`: `S.ovf` went from 0 to 1. -/
  | overflow
  /-- `Reset`: a RESET. -/
  | reset
  /-- `Status(w)`: a STATUS read that returned `w`. -/
  | status (w : Word)
deriving DecidableEq, Repr

/-- What an operation gives back (30_encoding.md R75). -/
inductive Result where
  /-- FEED, RESET, NOP, and any operation that holds. -/
  | nothing
  /-- TAKE: the message's length (8 bits) and its bytes. -/
  | message (len : BitVec 8) (bytes : Message)
  /-- STATUS: the STATUS word. -/
  | status (w : Word)
deriving DecidableEq, Repr

/-- Who issues operations (00_scope.md R9): the three agents, and the host that merges them. -/
inductive Agent where
  | host | source | sink | controller
deriving DecidableEq, Repr

/-- Every issuer. -/
def Agent.all : List Agent := [.host, .source, .sink, .controller]

/-- An issuer's operation words and the index of its next one (10_state.md R21, 70_reset_and_hazards.md R238). -/
structure Stream where
  words : List Word
  pos : Nat
deriving DecidableEq, Repr

/-- Why the machine stops with a fault. -/
inductive Fault where
  /-- STATUS computed a word with STATE = `11` or a nonzero reserved bit, which 93_implementation_defined.md treats as `fault`.
  Raised by execStatus, in no state (the layout of R28 never produces such a word). Safe: it only stops. -/
  | statusOutsideInvariant (w : Word)
deriving DecidableEq, Repr

/-- Why the model gives a word no meaning. -/
inductive Refusal where
  /-- An arm of exec without a meaning; raised by none. Safe: it only stops. -/
  | notModelled (mnemonic : String)
  /-- A reserved operation word (30_encoding.md R74): "The model refuses a reserved word: refuse(ReservedOperation(w))".
  Raised by step. Safe: hardware leaves the state unchanged and goes on. -/
  | reservedOperation (w : Word)
deriving DecidableEq, Repr

/-- The machine. The first four fields are the spec's state `S` (R22); the others are the model's own record of the host around
the block (notes/assumptions/1.md, 2.md, 5.md). -/
structure State where
  /-- `S.buf`: pending unterminated bytes, oldest first (R22, R23, R25). -/
  buf : List Byte
  /-- `S.ovf`: the overflow condition, sticky until RESET (R26). -/
  ovf : Bool
  /-- `S.out`: the output slot, an emitted message the sink has not yet taken (R27). -/
  out : Option Message
  /-- `S.trace`: the observable event history, oldest first (R30). -/
  trace : List Event
  /-- What the operation of the last step gave back (30_encoding.md R75). -/
  result : Result
  /-- Whose turn the next steps are, first first; where it is empty, the host's (00_scope.md R9). -/
  sched : List Agent
  /-- The words of one host that merges the three agents (00_scope.md R9). -/
  host : Stream
  /-- The words of the source. -/
  source : Stream
  /-- The words of the sink. -/
  sink : Stream
  /-- The words of the controller. -/
  controller : Stream
deriving DecidableEq, Repr

/-- No words, position 0 (10_state.md R21). -/
def Stream.init : Stream := { words := [], pos := 0 }

/-- The machine at power-on (10_state.md R32); the host's part is the model's choice (notes/assumptions/1.md, 2.md, 5.md). -/
def State.reset : State :=
  { buf := []
    ovf := false
    out := none
    trace := []
    result := .nothing
    sched := []
    host := Stream.init
    source := Stream.init
    sink := Stream.init
    controller := Stream.init }

end Sys2Proof.Machine
end

