-- ==== Sys2Proof/Machine/Flags.lean ====
section
/-! DEFINITION. The logical state (10_state.md R24), COUNT (R25) and the STATUS word with its fields (R28, 41_control.md
R132), all computed from the state. -/

namespace Sys2Proof.Machine

/-- The three logical states (R24, 90_conflicts.md C2). -/
inductive Logical where
  | empty | accumulating | overflowed
deriving DecidableEq, Repr

/-- `state(S)`, a function of `S.ovf` and `S.buf` (R24). -/
def logicalOf (buf : List Byte) (ovf : Bool) : Logical :=
  if ovf then .overflowed else if buf.length = 0 then .empty else .accumulating

/-- `stateCode(S)` (R28, R132): `00` EMPTY, `01` ACCUMULATING, `10` OVERFLOWED. -/
def stateCode : Logical → BitVec 2
  | .empty => 0b00#2
  | .accumulating => 0b01#2
  | .overflowed => 0b10#2

/-- The word `{ zext_8(len(S.buf)), 0000, S.ovf, (S.out != none), stateCode(S) }` (R132). -/
def statusBits (buf : List Byte) (ovf : Bool) (out : Option Message) : Word :=
  BitVec.ofNat 8 buf.length ++ 0#4 ++ BitVec.ofBool ovf ++ BitVec.ofBool out.isSome ++ stateCode (logicalOf buf ovf)

/-- The logical state of the machine (R24). -/
def State.logical (s : State) : Logical := logicalOf s.buf s.ovf

/-- COUNT, `len(S.buf)` (R25). -/
def State.count (s : State) : Nat := s.buf.length

/-- The STATUS word of the machine (R28). -/
def statusWord (s : State) : Word := statusBits s.buf s.ovf s.out

/-- STATE, `w[1:0]` (R28). -/
def statusState (w : Word) : BitVec 2 := w.extractLsb' 0 2

/-- MSGP, `w[2]` (R28). -/
def statusMsgp (w : Word) : Bool := w.getLsbD 2

/-- OVF, `w[3]` (R28). -/
def statusOvf (w : Word) : Bool := w.getLsbD 3

/-- The reserved bits, `w[7:4]` (R28). -/
def statusReserved (w : Word) : BitVec 4 := w.extractLsb' 4 4

/-- COUNT, `w[15:8]` (R28). -/
def statusCount (w : Word) : BitVec 8 := w.extractLsb' 8 8

/-- STATE is not `11` and the reserved bits are 0: a reader that sees anything else "has left the reachable states" (R28). -/
def statusLegal (w : Word) : Bool := decide (statusState w ≠ 0b11#2 ∧ statusReserved w = 0#4)

end Sys2Proof.Machine
end

