-- ==== Sys2Proof/WellFormed.lean ====
section
/-! DEFINITION. The checks on terms that their types do not already make: a legal instance (00_scope.md R6), an operation
(30_encoding.md R71) and a line of assembler source (R76). The domains of a command's fields are checked where the frame is
built (Machine/Commands.lean). -/

namespace Sys2Proof

/-- The legal range of `CAP` is `1..254`; `TERM` is any 8-bit value (R6, D8). -/
def Config.legal (c : Config) : Bool := decide (1 ≤ c.cap ∧ c.cap ≤ 254)

/-- A number an assembler line may give as a byte: it "must lie in `0..255`" (R76). -/
def byteInRange (n : Nat) : Bool := decide (n ≤ 255)

/-- Every operand of an operation is legal (R71): FEED takes any byte, which its type already says; the others take none. -/
def Instr.wellFormed : Instr → Bool
  | .nop => true
  | .feed b => byteInRange b.toNat
  | .take => true
  | .reset => true
  | .status => true

/-- The byte operands of a line are in range (R76). -/
def Line.wellFormed : Line → Bool
  | .blank => true
  | .nop => true
  | .feed b => byteInRange b
  | .take => true
  | .reset => true
  | .status => true
  | .feeds bs => bs.all byteInRange
  | .frame _ => true

end Sys2Proof
end

