-- ==== Sys2Proof/Decode.lean ====
section
/-! DEFINITION. The operation word format (30_encoding.md R70, R71), the opcode map as data (R72), the total decoder (R73, R74)
and the encoder. -/

namespace Sys2Proof

/-- `opc = w[15:12]` (R70). -/
def opcField (w : Word) : BitVec 4 := w.extractLsb' 12 4

/-- `z = w[11:8]`, reserved (R70). -/
def zField (w : Word) : BitVec 4 := w.extractLsb' 8 4

/-- `data = w[7:0]`: FEED's operand, "an unsigned byte with no extension, scaling or shift" (R71). -/
def dataField (w : Word) : Byte := w.extractLsb' 0 8

/-- What a word decodes to (R73): an operation, or `RESERVED(w)`. -/
inductive Decoded where
  | op (i : Instr)
  | reserved (w : Word)
deriving DecidableEq, Repr

/-- The decode function, total on all 65536 words (R73). -/
def decode (w : Word) : Decoded :=
  if w = 0x0000#16 then .op .nop
  else if w &&& 0xFF00#16 = 0x1000#16 then .op (.feed (dataField w))
  else if w = 0x2000#16 then .op .take
  else if w = 0x3000#16 then .op .reset
  else if w = 0x4000#16 then .op .status
  else .reserved w

/-- The word of an operation (R72): FEED is `0x1000 | b`. -/
def encode : Instr → Word
  | .nop => 0x0000#16
  | .feed b => 0x1000#16 ||| b.setWidth 16
  | .take => 0x2000#16
  | .reset => 0x3000#16
  | .status => 0x4000#16

/-- One row of the opcode map (R72): a word `w` is the row's when `(w & mask) = match`. -/
structure OpcodeRow where
  mnemonic : String
  pattern : Word
  mask : Word
deriving DecidableEq, Repr

/-- The opcode map of R72. -/
def opcodeTable : List OpcodeRow :=
  [ { mnemonic := "NOP", pattern := 0x0000#16, mask := 0xFFFF#16 },
    { mnemonic := "FEED", pattern := 0x1000#16, mask := 0xFF00#16 },
    { mnemonic := "TAKE", pattern := 0x2000#16, mask := 0xFFFF#16 },
    { mnemonic := "RESET", pattern := 0x3000#16, mask := 0xFFFF#16 },
    { mnemonic := "STATUS", pattern := 0x4000#16, mask := 0xFFFF#16 } ]

/-- `(w & mask) = match` (R72). -/
def OpcodeRow.covers (r : OpcodeRow) (w : Word) : Bool := decide (w &&& r.mask = r.pattern)

/-- The mnemonic of an operation (R72, R76). -/
def Instr.mnemonic : Instr → String
  | .nop => "NOP"
  | .feed _ => "FEED"
  | .take => "TAKE"
  | .reset => "RESET"
  | .status => "STATUS"

/-- The operation word that the low `nbits` bits of `w` make, the bits above them 0 (notes/assumptions/21.md). -/
def wordOfTable (nbits w : Nat) : Word := BitVec.ofNat 16 (w % 2 ^ nbits)

/-- What the decoder reads from an instruction of the opcode table given as a number: none where it is longer than one word
or reserved. -/
def decodeTableWord (nbits w : Nat) : Option Instr :=
  if nbits ≤ 16 then
    match decode (wordOfTable nbits w) with
    | .op i => some i
    | .reserved _ => none
  else none

end Sys2Proof
end

