-- ==== Sys2Proof/Machine/Operands.lean ====
section
/-! DEFINITION. The operand and result forms of the operations (30_encoding.md R71, R75). FEED's operand is read from its word
by the decoder (`dataField`, Decode.lean); no operation names a register or an address (R71, 10_state.md R20). -/

namespace Sys2Proof.Machine

/-- TAKE's result for message `m`: its length, an 8-bit value, and its bytes (R75, 40_framing.md R107). -/
def takeResult (m : Message) : Result := .message (BitVec.ofNat 8 m.length) m

/-- The operation words of a chunk (40_framing.md R106): `0x1000 | c0, ..., 0x1000 | c(n-1)`. -/
def feedsWords (bs : List Byte) : List Word := bs.map fun b => encode (.feed b)

end Sys2Proof.Machine
end

