-- ==== Sys2Proof/Machine/Ops.lean ====
section
/-! DEFINITION. The named operations on the state: the primitives of 00_scope.md R8, the enabling conditions, the one
exception and the way out of it (60_exceptions.md R205, R206), and the effect of every operation of the block for an instance
with parameters `c`. -/

namespace Sys2Proof.Machine

/-- `trace <- trace ++ [e]` (R8). -/
def State.record (s : State) (e : Event) : State := { s with trace := s.trace ++ [e] }

/-- What the operation gives back (30_encoding.md R75). -/
def State.answer (s : State) (r : Result) : State := { s with result := r }

/-- `BufAppend(b)` (R8, 20_memory.md R50). -/
def State.bufAppend (s : State) (b : Byte) : State := { s with buf := s.buf ++ [b] }

/-- The write of `BufDrain()`, `S.buf <- []`; what it returns is `S.buf` before (R8, 20_memory.md R50). -/
def State.bufDrain (s : State) : State := { s with buf := [] }

/-- `Emit(m)`, `S.out <- some m` (R8). -/
def State.emit (s : State) (m : Message) : State := { s with out := some m }

/-- `S.out <- none` (40_framing.md R107, 41_control.md R131). -/
def State.clearSlot (s : State) : State := { s with out := none }

/-- TAKING THE EXCEPTION, `raise Overflow()` (60_exceptions.md R200, R205): `S.ovf <- 1` and the event. "There is no
vector, no saved pc, no saved cause register and no mode change". -/
def State.raiseOverflow (s : State) : State := ({ s with ovf := true }).record .overflow

/-- THE WAY OUT OF IT, and RESET's effect (60_exceptions.md R206, 41_control.md R131): "There is no 'return from exception' that
resumes framing with the old buffer". -/
def State.clearBlock (s : State) : State :=
  ({ (s.bufDrain).clearSlot with ovf := false }).record .reset

/-- `hold` (R8, 40_framing.md R101, R108): the operation does not complete, changes nothing of `S` and gives nothing back
(notes/assumptions/4.md). -/
def State.held (s : State) : State := s.answer .nothing

/-- Whether an operation is enabled: FEED iff the slot is empty (R101), TAKE iff it is full (R108), the control family always
(41_control.md R130). -/
def enabled (i : Instr) (s : State) : Bool :=
  match i with
  | .nop => true
  | .feed _ => s.out.isNone
  | .take => s.out.isSome
  | .reset => true
  | .status => true

/-- The outcomes of one FEED (40_framing.md R100): "One FEED has exactly one outcome" (60_exceptions.md R204). -/
inductive FeedCase where
  | hold | discard | terminate | store | overflow
deriving DecidableEq, Repr

/-- Which outcome FEED of `b` has, in the order of R100's pseudocode. -/
def feedCase (c : Config) (b : Byte) (s : State) : FeedCase :=
  if s.out.isSome then .hold
  else if s.ovf then .discard
  else if b = c.term then .terminate
  else if s.buf.length < c.cap then .store
  else .overflow

/-- FEED (40_framing.md R100 to R105). -/
def feedOp (c : Config) (b : Byte) (s : State) : State :=
  match feedCase c b s with
  | .hold => s.held
  | .discard => (s.record (.input b)).answer .nothing
  | .terminate => (((s.record (.input b)).bufDrain).emit (s.buf ++ [c.term])).answer .nothing
  | .store => ((s.record (.input b)).bufAppend b).answer .nothing
  | .overflow => ((s.record (.input b)).raiseOverflow).answer .nothing

/-- TAKE (40_framing.md R107, R108). -/
def takeOp (s : State) : State :=
  match s.out with
  | none => s.held
  | some m => ((s.clearSlot).record (.msg m)).answer (takeResult m)

/-- RESET (41_control.md R131). -/
def resetOp (s : State) : State := (s.clearBlock).answer .nothing

/-- STATUS (41_control.md R132). -/
def statusOp (s : State) : State := (s.record (.status (statusWord s))).answer (.status (statusWord s))

/-- NOP (41_control.md R133): "no change to `S`. No event is recorded". -/
def nopOp (s : State) : State := s.answer .nothing

/-- The cause code an operation reports (60_exceptions.md R200): 1 where FEED raises Overflow, else 0; "no other code exists"
(notes/assumptions/25.md). -/
def causeCode (c : Config) (i : Instr) (s : State) : Nat :=
  match i with
  | .nop => 0
  | .feed b => if feedCase c b s = .overflow then 1 else 0
  | .take => 0
  | .reset => 0
  | .status => 0

end Sys2Proof.Machine
end

