-- ==== Sys2Proof/Machine/Control.lean ====
section
/-! DEFINITION. The control family (41_control.md): RESET, STATUS and NOP, enabled in every state (R130). -/

namespace Sys2Proof.Machine

/-- RESET (41_control.md R131). -/
def execReset (s : State) : Host.Outcome State Fault Refusal := .next (resetOp s)

/-- STATUS (41_control.md R132). The fault is the treatment 93_implementation_defined.md gives a word that R28 never produces
(notes/assumptions/10.md); no state reaches it. -/
def execStatus (s : State) : Host.Outcome State Fault Refusal :=
  if statusLegal (statusWord s) then .next (statusOp s) else .fault (.statusOutsideInvariant (statusWord s))

/-- NOP (41_control.md R133). -/
def execNop (s : State) : Host.Outcome State Fault Refusal := .next (nopOp s)

end Sys2Proof.Machine
end

