-- ==== Sys2Proof/Machine/Framing.lean ====
section
/-! DEFINITION. The framing family (40_framing.md): FEED and TAKE on this hardware. -/

namespace Sys2Proof.Machine

/-- FEED (40_framing.md R100 to R105), with this hardware's `CAP` and `TERM`. -/
def execFeed (b : Byte) (s : State) : Host.Outcome State Fault Refusal := .next (feedOp Config.hw b s)

/-- TAKE (40_framing.md R107, R108). -/
def execTake (s : State) : Host.Outcome State Fault Refusal := .next (takeOp s)

end Sys2Proof.Machine
end

