-- ==== Sys2Proof/Machine/Sequencer.lean ====
section
/-! DEFINITION. The host around the block: whose turn a step is (00_scope.md R9), which word it issues (10_state.md R21), and
what happens to its position (notes/assumptions/1.md, 2.md). -/

namespace Sys2Proof.Machine

/-- An issuer's words. -/
def State.stream (s : State) : Agent → Stream
  | .host => s.host
  | .source => s.source
  | .sink => s.sink
  | .controller => s.controller

/-- Replace an issuer's words. -/
def State.setStream (s : State) (a : Agent) (st : Stream) : State :=
  match a with
  | .host => { s with host := st }
  | .source => { s with source := st }
  | .sink => { s with sink := st }
  | .controller => { s with controller := st }

/-- The word at the position of a stream (R21). -/
def Stream.next (st : Stream) : Option Word := st.words[st.pos]?

/-- The words that have not completed yet (70_reset_and_hazards.md R238). -/
def Stream.remaining (st : Stream) : List Word := st.words.drop st.pos

/-- The position "advances by 1 after every operation that completes" (R21). -/
def Stream.advance (st : Stream) : Stream := { st with pos := st.pos + 1 }

/-- Put a word at the position, filling a gap before it with NOP words (notes/assumptions/22.md). -/
def Stream.place (st : Stream) (w : Word) : Stream :=
  { st with words := st.words.take st.pos ++ List.replicate (st.pos - st.words.length) 0x0000#16 ++ w :: st.words.drop (st.pos + 1) }

/-- Who moves in the next step. -/
def State.mover (s : State) : Agent := s.sched.headD .host

/-- The word the next step issues. -/
def State.nextWord (s : State) : Option Word := (s.stream s.mover).next

/-- The turn is used up, whether its operation completes or holds. -/
def State.dropTurn (s : State) : State := { s with sched := s.sched.tail }

/-- Move an issuer's position past its word. -/
def State.advance (s : State) (a : Agent) : State := s.setStream a (s.stream a).advance

/-- After the operation: the mover's position advances iff the operation was enabled; it "does not advance while an operation
holds" (R21). -/
def settle (a : Agent) (i : Instr) (before after : State) : State :=
  if enabled i before then after.advance a else after

/-- A turn in which the mover has no word: an idle interval, NOP's effect (41_control.md R133, notes/assumptions/3.md). -/
def State.idle (s : State) : State := nopOp s.dropTurn

/-- The step that issues `i`, given what `i` does to the block (`after`). -/
def State.issue (s : State) (i : Instr) (after : Host.Outcome State Fault Refusal) : Host.Outcome State Fault Refusal :=
  match after with
  | .next t => .next (settle s.mover i s t)
  | .fault f => .fault f
  | .refused r => .refused r

/-- `s` with `w` as the word its next step issues. -/
def State.placeWord (s : State) (w : Word) : State := s.setStream s.mover ((s.stream s.mover).place w)

/-- Which operations an agent's role gives it (60_exceptions.md R207); the merged host has every role (00_scope.md R9). The block
checks none (notes/assumptions/8.md). -/
def Agent.mayIssue : Agent → Instr → Bool
  | .host, .nop => true
  | .host, .feed _ => true
  | .host, .take => true
  | .host, .reset => true
  | .host, .status => true
  | .source, .nop => false
  | .source, .feed _ => true
  | .source, .take => false
  | .source, .reset => false
  | .source, .status => false
  | .sink, .nop => false
  | .sink, .feed _ => false
  | .sink, .take => true
  | .sink, .reset => false
  | .sink, .status => false
  | .controller, .nop => true
  | .controller, .feed _ => false
  | .controller, .take => false
  | .controller, .reset => true
  | .controller, .status => true

end Sys2Proof.Machine
end

