-- ==== Sys2Proof/Machine/Step.lean ====
section
/-! DEFINITION. One step of the machine: the mover's next word is decoded and performed on the block. One operation is one
indivisible step (20_memory.md R55, R59). -/

namespace Sys2Proof.Machine

/-- One step. A reserved word is refused (30_encoding.md R74); a turn without a word is idle. -/
def step (s : State) : Host.Outcome State Fault Refusal :=
  match s.nextWord with
  | none => .next s.idle
  | some w =>
    match decode w with
    | .reserved v => .refused (.reservedOperation v)
    | .op i => s.issue i (exec i s.dropTurn)

/-- `s` with the operation word that `nbits` and `w` give stored where the next step fetches its word. -/
def State.withFetchWord (s : State) (nbits w : Nat) : State := s.placeWord (wordOfTable nbits w)

end Sys2Proof.Machine
end

