-- ==== Sys2Proof/Laws/State.lean ====
section
/-! SUPPORT. One lemma per field per update of the state, each true by `rfl`, so that no later proof unfolds a record update. -/

namespace Sys2Proof.Machine

/-! ### State.record -/

@[simp] theorem State.record_buf (s : State) (e : Event) : (s.record e).buf = s.buf := rfl
@[simp] theorem State.record_ovf (s : State) (e : Event) : (s.record e).ovf = s.ovf := rfl
@[simp] theorem State.record_out (s : State) (e : Event) : (s.record e).out = s.out := rfl
@[simp] theorem State.record_trace (s : State) (e : Event) : (s.record e).trace = s.trace ++ [e] := rfl
@[simp] theorem State.record_result (s : State) (e : Event) : (s.record e).result = s.result := rfl
@[simp] theorem State.record_sched (s : State) (e : Event) : (s.record e).sched = s.sched := rfl
@[simp] theorem State.record_host (s : State) (e : Event) : (s.record e).host = s.host := rfl
@[simp] theorem State.record_source (s : State) (e : Event) : (s.record e).source = s.source := rfl
@[simp] theorem State.record_sink (s : State) (e : Event) : (s.record e).sink = s.sink := rfl
@[simp] theorem State.record_controller (s : State) (e : Event) : (s.record e).controller = s.controller := rfl

/-! ### State.answer -/

@[simp] theorem State.answer_buf (s : State) (r : Result) : (s.answer r).buf = s.buf := rfl
@[simp] theorem State.answer_ovf (s : State) (r : Result) : (s.answer r).ovf = s.ovf := rfl
@[simp] theorem State.answer_out (s : State) (r : Result) : (s.answer r).out = s.out := rfl
@[simp] theorem State.answer_trace (s : State) (r : Result) : (s.answer r).trace = s.trace := rfl
@[simp] theorem State.answer_result (s : State) (r : Result) : (s.answer r).result = r := rfl
@[simp] theorem State.answer_sched (s : State) (r : Result) : (s.answer r).sched = s.sched := rfl
@[simp] theorem State.answer_host (s : State) (r : Result) : (s.answer r).host = s.host := rfl
@[simp] theorem State.answer_source (s : State) (r : Result) : (s.answer r).source = s.source := rfl
@[simp] theorem State.answer_sink (s : State) (r : Result) : (s.answer r).sink = s.sink := rfl
@[simp] theorem State.answer_controller (s : State) (r : Result) : (s.answer r).controller = s.controller := rfl

/-! ### State.bufAppend -/

@[simp] theorem State.bufAppend_buf (s : State) (b : Byte) : (s.bufAppend b).buf = s.buf ++ [b] := rfl
@[simp] theorem State.bufAppend_ovf (s : State) (b : Byte) : (s.bufAppend b).ovf = s.ovf := rfl
@[simp] theorem State.bufAppend_out (s : State) (b : Byte) : (s.bufAppend b).out = s.out := rfl
@[simp] theorem State.bufAppend_trace (s : State) (b : Byte) : (s.bufAppend b).trace = s.trace := rfl
@[simp] theorem State.bufAppend_result (s : State) (b : Byte) : (s.bufAppend b).result = s.result := rfl
@[simp] theorem State.bufAppend_sched (s : State) (b : Byte) : (s.bufAppend b).sched = s.sched := rfl
@[simp] theorem State.bufAppend_host (s : State) (b : Byte) : (s.bufAppend b).host = s.host := rfl
@[simp] theorem State.bufAppend_source (s : State) (b : Byte) : (s.bufAppend b).source = s.source := rfl
@[simp] theorem State.bufAppend_sink (s : State) (b : Byte) : (s.bufAppend b).sink = s.sink := rfl
@[simp] theorem State.bufAppend_controller (s : State) (b : Byte) : (s.bufAppend b).controller = s.controller := rfl

/-! ### State.bufDrain -/

@[simp] theorem State.bufDrain_buf (s : State) : (s.bufDrain).buf = [] := rfl
@[simp] theorem State.bufDrain_ovf (s : State) : (s.bufDrain).ovf = s.ovf := rfl
@[simp] theorem State.bufDrain_out (s : State) : (s.bufDrain).out = s.out := rfl
@[simp] theorem State.bufDrain_trace (s : State) : (s.bufDrain).trace = s.trace := rfl
@[simp] theorem State.bufDrain_result (s : State) : (s.bufDrain).result = s.result := rfl
@[simp] theorem State.bufDrain_sched (s : State) : (s.bufDrain).sched = s.sched := rfl
@[simp] theorem State.bufDrain_host (s : State) : (s.bufDrain).host = s.host := rfl
@[simp] theorem State.bufDrain_source (s : State) : (s.bufDrain).source = s.source := rfl
@[simp] theorem State.bufDrain_sink (s : State) : (s.bufDrain).sink = s.sink := rfl
@[simp] theorem State.bufDrain_controller (s : State) : (s.bufDrain).controller = s.controller := rfl

/-! ### State.emit -/

@[simp] theorem State.emit_buf (s : State) (m : Message) : (s.emit m).buf = s.buf := rfl
@[simp] theorem State.emit_ovf (s : State) (m : Message) : (s.emit m).ovf = s.ovf := rfl
@[simp] theorem State.emit_out (s : State) (m : Message) : (s.emit m).out = some m := rfl
@[simp] theorem State.emit_trace (s : State) (m : Message) : (s.emit m).trace = s.trace := rfl
@[simp] theorem State.emit_result (s : State) (m : Message) : (s.emit m).result = s.result := rfl
@[simp] theorem State.emit_sched (s : State) (m : Message) : (s.emit m).sched = s.sched := rfl
@[simp] theorem State.emit_host (s : State) (m : Message) : (s.emit m).host = s.host := rfl
@[simp] theorem State.emit_source (s : State) (m : Message) : (s.emit m).source = s.source := rfl
@[simp] theorem State.emit_sink (s : State) (m : Message) : (s.emit m).sink = s.sink := rfl
@[simp] theorem State.emit_controller (s : State) (m : Message) : (s.emit m).controller = s.controller := rfl

/-! ### State.clearSlot -/

@[simp] theorem State.clearSlot_buf (s : State) : (s.clearSlot).buf = s.buf := rfl
@[simp] theorem State.clearSlot_ovf (s : State) : (s.clearSlot).ovf = s.ovf := rfl
@[simp] theorem State.clearSlot_out (s : State) : (s.clearSlot).out = none := rfl
@[simp] theorem State.clearSlot_trace (s : State) : (s.clearSlot).trace = s.trace := rfl
@[simp] theorem State.clearSlot_result (s : State) : (s.clearSlot).result = s.result := rfl
@[simp] theorem State.clearSlot_sched (s : State) : (s.clearSlot).sched = s.sched := rfl
@[simp] theorem State.clearSlot_host (s : State) : (s.clearSlot).host = s.host := rfl
@[simp] theorem State.clearSlot_source (s : State) : (s.clearSlot).source = s.source := rfl
@[simp] theorem State.clearSlot_sink (s : State) : (s.clearSlot).sink = s.sink := rfl
@[simp] theorem State.clearSlot_controller (s : State) : (s.clearSlot).controller = s.controller := rfl

/-! ### State.raiseOverflow -/

@[simp] theorem State.raiseOverflow_buf (s : State) : (s.raiseOverflow).buf = s.buf := rfl
@[simp] theorem State.raiseOverflow_ovf (s : State) : (s.raiseOverflow).ovf = true := rfl
@[simp] theorem State.raiseOverflow_out (s : State) : (s.raiseOverflow).out = s.out := rfl
@[simp] theorem State.raiseOverflow_trace (s : State) : (s.raiseOverflow).trace = s.trace ++ [.overflow] := rfl
@[simp] theorem State.raiseOverflow_result (s : State) : (s.raiseOverflow).result = s.result := rfl
@[simp] theorem State.raiseOverflow_sched (s : State) : (s.raiseOverflow).sched = s.sched := rfl
@[simp] theorem State.raiseOverflow_host (s : State) : (s.raiseOverflow).host = s.host := rfl
@[simp] theorem State.raiseOverflow_source (s : State) : (s.raiseOverflow).source = s.source := rfl
@[simp] theorem State.raiseOverflow_sink (s : State) : (s.raiseOverflow).sink = s.sink := rfl
@[simp] theorem State.raiseOverflow_controller (s : State) : (s.raiseOverflow).controller = s.controller := rfl

/-! ### State.clearBlock -/

@[simp] theorem State.clearBlock_buf (s : State) : (s.clearBlock).buf = [] := rfl
@[simp] theorem State.clearBlock_ovf (s : State) : (s.clearBlock).ovf = false := rfl
@[simp] theorem State.clearBlock_out (s : State) : (s.clearBlock).out = none := rfl
@[simp] theorem State.clearBlock_trace (s : State) : (s.clearBlock).trace = s.trace ++ [.reset] := rfl
@[simp] theorem State.clearBlock_result (s : State) : (s.clearBlock).result = s.result := rfl
@[simp] theorem State.clearBlock_sched (s : State) : (s.clearBlock).sched = s.sched := rfl
@[simp] theorem State.clearBlock_host (s : State) : (s.clearBlock).host = s.host := rfl
@[simp] theorem State.clearBlock_source (s : State) : (s.clearBlock).source = s.source := rfl
@[simp] theorem State.clearBlock_sink (s : State) : (s.clearBlock).sink = s.sink := rfl
@[simp] theorem State.clearBlock_controller (s : State) : (s.clearBlock).controller = s.controller := rfl

/-! ### State.held -/

@[simp] theorem State.held_buf (s : State) : (s.held).buf = s.buf := rfl
@[simp] theorem State.held_ovf (s : State) : (s.held).ovf = s.ovf := rfl
@[simp] theorem State.held_out (s : State) : (s.held).out = s.out := rfl
@[simp] theorem State.held_trace (s : State) : (s.held).trace = s.trace := rfl
@[simp] theorem State.held_result (s : State) : (s.held).result = .nothing := rfl
@[simp] theorem State.held_sched (s : State) : (s.held).sched = s.sched := rfl
@[simp] theorem State.held_host (s : State) : (s.held).host = s.host := rfl
@[simp] theorem State.held_source (s : State) : (s.held).source = s.source := rfl
@[simp] theorem State.held_sink (s : State) : (s.held).sink = s.sink := rfl
@[simp] theorem State.held_controller (s : State) : (s.held).controller = s.controller := rfl

/-! ### State.dropTurn -/

@[simp] theorem State.dropTurn_buf (s : State) : (s.dropTurn).buf = s.buf := rfl
@[simp] theorem State.dropTurn_ovf (s : State) : (s.dropTurn).ovf = s.ovf := rfl
@[simp] theorem State.dropTurn_out (s : State) : (s.dropTurn).out = s.out := rfl
@[simp] theorem State.dropTurn_trace (s : State) : (s.dropTurn).trace = s.trace := rfl
@[simp] theorem State.dropTurn_result (s : State) : (s.dropTurn).result = s.result := rfl
@[simp] theorem State.dropTurn_sched (s : State) : (s.dropTurn).sched = s.sched.tail := rfl
@[simp] theorem State.dropTurn_host (s : State) : (s.dropTurn).host = s.host := rfl
@[simp] theorem State.dropTurn_source (s : State) : (s.dropTurn).source = s.source := rfl
@[simp] theorem State.dropTurn_sink (s : State) : (s.dropTurn).sink = s.sink := rfl
@[simp] theorem State.dropTurn_controller (s : State) : (s.dropTurn).controller = s.controller := rfl

/-! ### State.setStream and State.advance -/

@[simp] theorem State.setStream_buf (s : State) (a : Agent) (st : Stream) : (s.setStream a st).buf = s.buf := by cases a <;> rfl
@[simp] theorem State.setStream_ovf (s : State) (a : Agent) (st : Stream) : (s.setStream a st).ovf = s.ovf := by cases a <;> rfl
@[simp] theorem State.setStream_out (s : State) (a : Agent) (st : Stream) : (s.setStream a st).out = s.out := by cases a <;> rfl
@[simp] theorem State.setStream_trace (s : State) (a : Agent) (st : Stream) : (s.setStream a st).trace = s.trace := by cases a <;> rfl
@[simp] theorem State.setStream_result (s : State) (a : Agent) (st : Stream) : (s.setStream a st).result = s.result := by cases a <;> rfl
@[simp] theorem State.setStream_sched (s : State) (a : Agent) (st : Stream) : (s.setStream a st).sched = s.sched := by cases a <;> rfl
@[simp] theorem State.advance_buf (s : State) (a : Agent) : (s.advance a).buf = s.buf := s.setStream_buf a _
@[simp] theorem State.advance_ovf (s : State) (a : Agent) : (s.advance a).ovf = s.ovf := s.setStream_ovf a _
@[simp] theorem State.advance_out (s : State) (a : Agent) : (s.advance a).out = s.out := s.setStream_out a _
@[simp] theorem State.advance_trace (s : State) (a : Agent) : (s.advance a).trace = s.trace := s.setStream_trace a _
@[simp] theorem State.advance_result (s : State) (a : Agent) : (s.advance a).result = s.result := s.setStream_result a _
@[simp] theorem State.advance_sched (s : State) (a : Agent) : (s.advance a).sched = s.sched := s.setStream_sched a _

@[simp] theorem State.stream_setStream_same (s : State) (a : Agent) (st : Stream) : (s.setStream a st).stream a = st := by
  cases a <;> rfl

theorem State.stream_setStream_other (s : State) (st : Stream) {a b : Agent} (h : b ≠ a) :
    (s.setStream a st).stream b = s.stream b := by
  cases a <;> cases b <;> first | rfl | exact absurd rfl h

@[simp] theorem State.stream_advance_same (s : State) (a : Agent) : (s.advance a).stream a = (s.stream a).advance :=
  s.stream_setStream_same a _

theorem State.stream_advance_other (s : State) {a b : Agent} (h : b ≠ a) : (s.advance a).stream b = s.stream b :=
  s.stream_setStream_other _ h

@[simp] theorem State.stream_dropTurn (s : State) (a : Agent) : s.dropTurn.stream a = s.stream a := by cases a <;> rfl

@[simp] theorem Stream.advance_words (st : Stream) : st.advance.words = st.words := rfl

@[simp] theorem Stream.advance_pos (st : Stream) : st.advance.pos = st.pos + 1 := rfl

/-- Two states with the same issuers' words have the same streams. -/
theorem State.stream_congr {s t : State} (h : t.host = s.host ∧ t.source = s.source ∧ t.sink = s.sink ∧ t.controller = s.controller)
    (a : Agent) : t.stream a = s.stream a := by
  obtain ⟨h1, h2, h3, h4⟩ := h
  cases a <;> assumption

/-- `Agent.all` lists every agent. -/
@[simp] theorem Agent.mem_all (a : Agent) : a ∈ Agent.all := by cases a <;> decide

end Sys2Proof.Machine
end

