-- ==== Sys2Proof/Laws/Ops.lean ====
section
/-! SUPPORT. What each shared operation can do, said once: the cases of FEED and TAKE as equations, the frames of all five
operations, and the legality of the STATUS word. -/

namespace Sys2Proof.Machine

/-! ### Which case FEED is in (40_framing.md R101 to R105) -/

theorem feedCase_hold {c : Config} {b : Byte} {s : State} (h : s.out.isSome = true) : feedCase c b s = .hold := by
  simp [feedCase, h]

theorem feedCase_discard {c : Config} {b : Byte} {s : State} (h : s.out = none) (ho : s.ovf = true) :
    feedCase c b s = .discard := by
  simp [feedCase, h, ho]

theorem feedCase_terminate {c : Config} {b : Byte} {s : State} (h : s.out = none) (ho : s.ovf = false) (hb : b = c.term) :
    feedCase c b s = .terminate := by
  simp [feedCase, h, ho, hb]

theorem feedCase_store {c : Config} {b : Byte} {s : State} (h : s.out = none) (ho : s.ovf = false) (hb : b ≠ c.term)
    (hl : s.buf.length < c.cap) : feedCase c b s = .store := by
  simp [feedCase, h, ho, hb, hl]

theorem feedCase_overflow {c : Config} {b : Byte} {s : State} (h : s.out = none) (ho : s.ovf = false) (hb : b ≠ c.term)
    (hl : c.cap ≤ s.buf.length) : feedCase c b s = .overflow := by
  simp [feedCase, h, ho, hb, Nat.not_lt.mpr hl]

/-- The one inversion of FEED: its case says what the state was and what the effect is. -/
theorem feedOp_cases (c : Config) (b : Byte) (s : State) :
    (s.out.isSome = true ∧ feedOp c b s = s.held) ∨
    (s.out = none ∧ s.ovf = true ∧ feedOp c b s = (s.record (.input b)).answer .nothing) ∨
    (s.out = none ∧ s.ovf = false ∧ b = c.term ∧
      feedOp c b s = (((s.record (.input b)).bufDrain).emit (s.buf ++ [c.term])).answer .nothing) ∨
    (s.out = none ∧ s.ovf = false ∧ b ≠ c.term ∧ s.buf.length < c.cap ∧
      feedOp c b s = ((s.record (.input b)).bufAppend b).answer .nothing) ∨
    (s.out = none ∧ s.ovf = false ∧ b ≠ c.term ∧ c.cap ≤ s.buf.length ∧
      feedOp c b s = ((s.record (.input b)).raiseOverflow).answer .nothing) := by
  cases h : s.out with
  | some m => exact .inl ⟨rfl, by simp [feedOp, feedCase, h]⟩
  | none =>
    cases ho : s.ovf with
    | true => exact .inr (.inl ⟨rfl, rfl, by simp [feedOp, feedCase_discard h ho]⟩)
    | false =>
      by_cases hb : b = c.term
      · exact .inr (.inr (.inl ⟨rfl, rfl, hb, by simp [feedOp, feedCase_terminate h ho hb]⟩))
      · by_cases hl : s.buf.length < c.cap
        · exact .inr (.inr (.inr (.inl ⟨rfl, rfl, hb, hl, by simp [feedOp, feedCase_store h ho hb hl]⟩)))
        · have hl := Nat.not_lt.mp hl
          exact .inr (.inr (.inr (.inr ⟨rfl, rfl, hb, hl, by simp [feedOp, feedCase_overflow h ho hb hl]⟩)))

/-- The one inversion of TAKE. -/
theorem takeOp_cases (s : State) :
    (s.out = none ∧ takeOp s = s.held) ∨
    ∃ m, s.out = some m ∧ takeOp s = ((s.clearSlot).record (.msg m)).answer (takeResult m) := by
  cases h : s.out with
  | none => exact .inl ⟨rfl, by simp [takeOp, h]⟩
  | some m => exact .inr ⟨m, rfl, by simp [takeOp, h]⟩

/-! ### The operations leave the host's part alone (10_state.md R21) -/

theorem feedOp_host (c : Config) (b : Byte) (s : State) :
    (feedOp c b s).sched = s.sched ∧ (feedOp c b s).host = s.host ∧ (feedOp c b s).source = s.source ∧
      (feedOp c b s).sink = s.sink ∧ (feedOp c b s).controller = s.controller := by
  obtain ⟨-, h⟩ | ⟨-, -, h⟩ | ⟨-, -, -, h⟩ | ⟨-, -, -, -, h⟩ | ⟨-, -, -, -, h⟩ := feedOp_cases c b s <;> simp [h]

theorem takeOp_host (s : State) :
    (takeOp s).sched = s.sched ∧ (takeOp s).host = s.host ∧ (takeOp s).source = s.source ∧
      (takeOp s).sink = s.sink ∧ (takeOp s).controller = s.controller := by
  obtain ⟨-, h⟩ | ⟨m, -, h⟩ := takeOp_cases s <;> simp [h]

/-! ### The STATUS word (10_state.md R28) -/

theorem stateCode_ne_three (l : Logical) : stateCode l ≠ 0b11#2 := by cases l <;> decide

/-- Every bit of the STATUS word (R28). -/
theorem getLsbD_statusBits (buf : List Byte) (ovf : Bool) (out : Option Message) (i : Nat) :
    (statusBits buf ovf out).getLsbD i =
      if i < 2 then (stateCode (logicalOf buf ovf)).getLsbD i
      else if i = 2 then out.isSome
      else if i = 3 then ovf
      else if i < 8 then false
      else (BitVec.ofNat 8 buf.length).getLsbD (i - 8) := by
  simp only [statusBits, BitVec.getLsbD_append]
  by_cases h : i < 2
  · simp [h]
  · by_cases h2 : i = 2
    · subst h2; simp
    · by_cases h3 : i = 3
      · subst h3; simp
      · have h4 : ¬ (i - 2 < 1) := by omega
        have h5 : ¬ (i - 2 - 1 < 1) := by omega
        have h6 : (i - 2 - 1 - 1 < 4) ↔ i < 8 := by omega
        have h7 : i - 2 - 1 - 1 - 4 = i - 8 := by omega
        simp only [h, h2, h3, h4, h5, h6, h7, BitVec.getLsbD_zero, if_false]

theorem statusState_statusBits (buf : List Byte) (ovf : Bool) (out : Option Message) :
    statusState (statusBits buf ovf out) = stateCode (logicalOf buf ovf) := by
  apply BitVec.eq_of_getLsbD_eq
  intro i hi
  rw [statusState, BitVec.getLsbD_extractLsb', getLsbD_statusBits]
  simp [hi]

theorem statusReserved_statusBits (buf : List Byte) (ovf : Bool) (out : Option Message) :
    statusReserved (statusBits buf ovf out) = 0#4 := by
  apply BitVec.eq_of_getLsbD_eq
  intro i hi
  rw [statusReserved, BitVec.getLsbD_extractLsb', getLsbD_statusBits, if_neg (by omega), if_neg (by omega), if_neg (by omega),
    if_pos (by omega)]
  simp

theorem statusCount_statusBits (buf : List Byte) (ovf : Bool) (out : Option Message) :
    statusCount (statusBits buf ovf out) = BitVec.ofNat 8 buf.length := by
  apply BitVec.eq_of_getLsbD_eq
  intro i hi
  rw [statusCount, BitVec.getLsbD_extractLsb', getLsbD_statusBits, if_neg (by omega), if_neg (by omega), if_neg (by omega),
    if_neg (by omega), Nat.add_sub_cancel_left]
  simp [hi]

theorem statusMsgp_statusBits (buf : List Byte) (ovf : Bool) (out : Option Message) :
    statusMsgp (statusBits buf ovf out) = out.isSome := by
  rw [statusMsgp, getLsbD_statusBits]; simp

theorem statusOvf_statusBits (buf : List Byte) (ovf : Bool) (out : Option Message) :
    statusOvf (statusBits buf ovf out) = ovf := by
  rw [statusOvf, getLsbD_statusBits]; simp

/-- The guard of execStatus holds in every state. -/
theorem statusLegal_statusWord (s : State) : statusLegal (statusWord s) = true := by
  simp [statusLegal, statusWord, statusState_statusBits, statusReserved_statusBits, stateCode_ne_three]

end Sys2Proof.Machine
end

