-- ==== Sys2Proof/Laws/Exec.lean ====
section
/-! SUPPORT. What exec and step can do, said once each. -/

namespace Sys2Proof.Machine

theorem execStatus_eq (s : State) : execStatus s = .next (statusOp s) := by
  simp [execStatus, statusLegal_statusWord]

/-- The effect of an operation on this hardware as a function. -/
theorem exec_next_iff {i : Instr} {s t : State} :
    exec i s = .next t ↔
      match i with
      | .nop => t = nopOp s
      | .feed b => t = feedOp Config.hw b s
      | .take => t = takeOp s
      | .reset => t = resetOp s
      | .status => t = statusOp s := by
  cases i <;> simp [exec, execNop, execFeed, execTake, execReset, execStatus_eq, eq_comm]

@[simp] theorem enabled_dropTurn (i : Instr) (s : State) : enabled i s.dropTurn = enabled i s := by cases i <;> rfl

/-- The one inversion of a step that answers a next state: the mover had no word and the turn was idle, or its word was an
operation, exec answered a next state, and the position was settled. -/
theorem step_next {s t : State} (h : step s = .next t) :
    (s.nextWord = none ∧ t = s.idle) ∨
    ∃ w i u, s.nextWord = some w ∧ decode w = .op i ∧ exec i s.dropTurn = .next u ∧ t = settle s.mover i s u := by
  unfold step at h
  split at h
  · next hw => exact .inl ⟨hw, by cases h; rfl⟩
  · next w hw =>
    split at h
    · cases h
    · next i hd =>
      refine .inr ⟨w, i, ?_⟩
      cases he : exec i s.dropTurn with
      | next u => rw [he] at h; cases h; exact ⟨u, hw, hd, rfl, rfl⟩
      | fault f => rw [he] at h; cases h
      | refused r => rw [he] at h; cases h

/-- Settling moves a position and nothing else. -/
theorem settle_block (a : Agent) (i : Instr) (s t : State) :
    (settle a i s t).buf = t.buf ∧ (settle a i s t).ovf = t.ovf ∧ (settle a i s t).out = t.out ∧
      (settle a i s t).trace = t.trace ∧ (settle a i s t).result = t.result ∧ (settle a i s t).sched = t.sched := by
  unfold settle
  split <;> simp

theorem settle_stream_other {a b : Agent} (i : Instr) (s t : State) (h : b ≠ a) : (settle a i s t).stream b = t.stream b := by
  unfold settle
  split
  · exact t.stream_advance_other h
  · rfl

theorem settle_stream_same (a : Agent) (i : Instr) (s t : State) :
    (settle a i s t).stream a = if enabled i s then (t.stream a).advance else t.stream a := by
  unfold settle
  split <;> simp

end Sys2Proof.Machine
end

