-- ==== Sys2Proof/Machine/Ports.lean ====
section
/-! DEFINITION. The port mapping of 30_encoding.md R78, "one hardware realisation of the operation interface": what one rising
edge does, what the output ports show, and the sampling of the status port, a STATUS (41_control.md R132). It is informative;
the machine's step does not go through it (notes/assumptions/11.md). -/

namespace Sys2Proof.Machine

/-- The input ports at one rising edge (R78). -/
structure PortIn where
  rst : Bool
  inValid : Bool
  inData : Byte
  outReady : Bool
deriving DecidableEq, Repr

/-- `in_ready = (S.out = none)` (R78). -/
def inReady (s : State) : Bool := s.out.isNone

/-- `out_valid = (S.out != none)`, the message-available level (R78, 60_exceptions.md R203). -/
def outValid (s : State) : Bool := s.out.isSome

/-- `ovf = S.ovf`, the overflow level (R78, 60_exceptions.md R203). -/
def ovfPort (s : State) : Bool := s.ovf

/-- `status`, the STATUS word, combinational (R78): what the port drives, whether or not anyone samples it. -/
def statusPort (s : State) : Word := statusWord s

/-- `out_len` at sample `t`: `len(m)`, unspecified while the slot is empty (R78, 10_state.md R29). -/
def outLen (t : Nat) (s : State) : BitVec 8 :=
  match s.out with
  | some m => BitVec.ofNat 8 m.length
  | none => Config.undrivenLen t

/-- Lane `i` of `out_data` at sample `t`: byte `i` of the message, unspecified beyond it (10_state.md R29). -/
def outLane (t : Nat) (s : State) (i : Nat) : Byte :=
  match s.out with
  | some m => m.getD i (Config.undrivenLane t i)
  | none => Config.undrivenLane t i

/-- Lanes packed with lane 0 in the lowest bits (20_memory.md R53). -/
def packLanes : List Byte → Nat
  | [] => 0
  | b :: bs => b.toNat + 256 * packLanes bs

/-- `out_data` at sample `t`, `8*(CAP+1)` bits, byte `i` in bits `[8i+7:8i]` (R78, 20_memory.md R53). -/
def outData (c : Config) (t : Nat) (s : State) : BitVec (8 * c.msgMax) :=
  BitVec.ofNat (8 * c.msgMax) (packLanes ((List.range c.msgMax).map (outLane t s)))

/-- The operation of one rising edge, in R78's priority order: RESET, TAKE, FEED, NOP. -/
def portOp (p : PortIn) (s : State) : Instr :=
  if p.rst then .reset
  else if outValid s && p.outReady then .take
  else if p.inValid && inReady s then .feed p.inData
  else .nop

/-- One rising edge: "exactly one of the following happens" (R78). -/
def clockEdge (p : PortIn) (s : State) : Host.Outcome State Fault Refusal := exec (portOp p s) s

/-- Sampling the `status` port, the second form of STATUS (41_control.md R132): "Reading `status` is a STATUS operation" (R78), so
its word is recorded as every STATUS read's is (10_state.md R30). -/
def sampleStatus (s : State) : Host.Outcome State Fault Refusal := exec .status s

/-- One cycle: the port is sampled or not, then the edge performs its operation on what the sampling left
(notes/assumptions/11.md). -/
def clockCycle (sampled : Bool) (p : PortIn) (s : State) : Host.Outcome State Fault Refusal :=
  if sampled then
    match sampleStatus s with
    | .next t => clockEdge p t
    | .fault f => .fault f
    | .refused r => .refused r
  else clockEdge p s

end Sys2Proof.Machine
end

