-- ==== Sys2Proof/Laws/Ports.lean ====
section
/-! SUPPORT. What the sampling of the status port and a whole cycle can do, said once. -/

namespace Sys2Proof.Machine

/-- Sampling the status port always answers STATUS's effect. -/
theorem sampleStatus_eq (s : State) : sampleStatus s = .next (statusOp s) := execStatus_eq s

theorem clockCycle_unsampled (p : PortIn) (s : State) : clockCycle false p s = clockEdge p s := rfl

/-- A sampled cycle is its edge on what STATUS left. -/
theorem clockCycle_sampled (p : PortIn) (s : State) : clockCycle true p s = clockEdge p (statusOp s) := by
  simp [clockCycle, sampleStatus_eq]

/-- Sampling does not change what the edge does. -/
@[simp] theorem portOp_statusOp (p : PortIn) (s : State) : portOp p (statusOp s) = portOp p s := rfl

end Sys2Proof.Machine
end

