-- ==== Sys2Proof/Machine/Commands.lean ====
section
/-! DEFINITION. The command frames (45_frame_formats.md): the parameter domains, the RangeError and the byte layouts. The
builder "reads and writes no state of the FrameAssembler" (R150). -/

namespace Sys2Proof.Machine

/-- The lower bound of a field (R151), inclusive. -/
def fieldLo : Field → Nat
  | .address => 1
  | .panSpeed => 1
  | .tiltSpeed => 1
  | .zoomSpeed => 0
  | .presetIndex => 0

/-- The upper bound of a field (R151), inclusive. -/
def fieldHi : Field → Nat
  | .address => 15
  | .panSpeed => 24
  | .tiltSpeed => 20
  | .zoomSpeed => 7
  | .presetIndex => 15

/-- Whether a value lies in the field's domain (R151). -/
def inDomain (f : Field) (v : Nat) : Bool := decide (fieldLo f ≤ v) && decide (v ≤ fieldHi f)

/-- Why the builder produces no bytes. -/
inductive FrameError where
  /-- RangeError: "the offending field, its provided value, and its valid bound" (R152). -/
  | rangeError (field : Field) (value lo hi : Nat)
  /-- The kind's layout is not in the source (R163, notes/assumptions/13.md). -/
  | layoutNotInSource (kind : RefusedKind)
deriving DecidableEq, Repr

/-- The fields present for a command and their values (R155 to R162), in the order in which R152 reports them. -/
def commandFields : Command → List (Field × Nat)
  | .up a p => [(.address, a), (.panSpeed, p)]
  | .stopPanTilt a => [(.address, a)]
  | .zoomIn a z => [(.address, a), (.zoomSpeed, z)]
  | .zoomOut a z => [(.address, a), (.zoomSpeed, z)]
  | .stopZoom a => [(.address, a)]
  | .storePreset a i => [(.address, a), (.presetIndex, i)]
  | .recallPreset a i => [(.address, a), (.presetIndex, i)]
  | .powerOn a => [(.address, a)]
  | .powerOff a => [(.address, a)]
  | .powerInquiry a => [(.address, a)]
  | .noLayout _ _ => []

/-- The first field outside its domain, if any (R152). -/
def firstOutside (fs : List (Field × Nat)) : Option (Field × Nat) := fs.find? fun fv => !inDomain fv.1 fv.2

/-- The header byte, `H = 0x80 | A` (R153). -/
def headerByte (a : Nat) : Byte := 0x80#8 ||| BitVec.ofNat 8 a

/-- The terminator of every frame, `0xFF` (R154). -/
def frameEnd : Byte := 0xFF#8

/-- The kind that `FRAME` refuses (R163), where the command is of one. -/
def refusedKindOf : Command → Option RefusedKind
  | .up _ _ => none
  | .stopPanTilt _ => none
  | .zoomIn _ _ => none
  | .zoomOut _ _ => none
  | .stopZoom _ => none
  | .storePreset _ _ => none
  | .recallPreset _ _ => none
  | .powerOn _ => none
  | .powerOff _ => none
  | .powerInquiry _ => none
  | .noLayout k _ => some k

/-- The bytes of a command whose fields are in their domains (R155, R158 to R162). A refused kind has no layout: `buildFrame`
never asks for its bytes. -/
def commandBytes : Command → List Byte
  | .up a p => [headerByte a, 0x01#8, 0x06#8, 0x01#8, BitVec.ofNat 8 p, 0x00#8, 0x03#8, 0x01#8, frameEnd]
  | .stopPanTilt a => [headerByte a, 0x01#8, 0x06#8, 0x01#8, 0x00#8, 0x00#8, 0x03#8, 0x03#8, frameEnd]
  | .zoomIn a z => [headerByte a, 0x01#8, 0x04#8, 0x07#8, 0x20#8 ||| BitVec.ofNat 8 z, frameEnd]
  | .zoomOut a z => [headerByte a, 0x01#8, 0x04#8, 0x07#8, 0x30#8 ||| BitVec.ofNat 8 z, frameEnd]
  | .stopZoom a => [headerByte a, 0x01#8, 0x04#8, 0x07#8, 0x00#8, frameEnd]
  | .storePreset a i => [headerByte a, 0x01#8, 0x04#8, 0x3F#8, 0x01#8, BitVec.ofNat 8 i, frameEnd]
  | .recallPreset a i => [headerByte a, 0x01#8, 0x04#8, 0x3F#8, 0x02#8, BitVec.ofNat 8 i, frameEnd]
  | .powerOn a => [headerByte a, 0x01#8, 0x04#8, 0x00#8, 0x02#8, frameEnd]
  | .powerOff a => [headerByte a, 0x01#8, 0x04#8, 0x00#8, 0x03#8, frameEnd]
  | .powerInquiry a => [headerByte a, 0x09#8, 0x04#8, 0x00#8, frameEnd]
  | .noLayout _ _ => []

/-- The length R154's table gives a kind that `FRAME` refuses: its bytes are not in the source, its length is. None for a kind
that the table does not list. -/
def refusedKindLength : RefusedKind → Option Nat
  | .down => some 9
  | .left => some 9
  | .right => some 9
  | .upLeft => some 9
  | .upRight => some 9
  | .downLeft => some 9
  | .downRight => some 9
  | .unlisted _ => none

/-- The length of the frame of a command's kind (R154): "Length is fixed per kind". -/
def commandLength : Command → Option Nat
  | .up _ _ => some 9
  | .stopPanTilt _ => some 9
  | .zoomIn _ _ => some 6
  | .zoomOut _ _ => some 6
  | .stopZoom _ => some 6
  | .storePreset _ _ => some 7
  | .recallPreset _ _ => some 7
  | .powerOn _ => some 6
  | .powerOff _ => some 6
  | .powerInquiry _ => some 5
  | .noLayout k _ => refusedKindLength k

/-- `Frame(kind, args)` (R150): a byte list, a RangeError with no bytes (R152), or the refusal of the kind by name (R163). -/
def buildFrame (cmd : Command) : Except FrameError (List Byte) :=
  match refusedKindOf cmd with
  | some k => .error (.layoutNotInSource k)
  | none =>
    match firstOutside (commandFields cmd) with
    | some (f, v) => .error (.rangeError f v (fieldLo f) (fieldHi f))
    | none => .ok (commandBytes cmd)

end Sys2Proof.Machine
end

