-- ==== Sys2Proof/Machine/Assembler.lean ====
section
/-! DEFINITION. The assembler (30_encoding.md R76, R77): from source text to lines, and from a line to operation words. What the
spec leaves open of the text form is in notes/assumptions/12.md. -/

namespace Sys2Proof.Machine

/-- Why the assembler refuses a line. -/
inductive AsmError where
  /-- A byte operand outside `0..255` (R76). -/
  | byteOutOfRange (n : Nat)
  /-- `FRAME` refuses its line (45_frame_formats.md R152, R163). -/
  | frame (e : FrameError)
  /-- The text is no line of R76 or R77. -/
  | badLine
deriving DecidableEq, Repr

/-- A byte operand: "the assembler refuses any other value" (R76). -/
def byteOperand (n : Nat) : Except AsmError Byte :=
  if byteInRange n then .ok (BitVec.ofNat 8 n) else .error (.byteOutOfRange n)

/-- The byte operands of a chunk; the first bad one refuses the line. -/
def byteOperands : List Nat → Except AsmError (List Byte)
  | [] => .ok []
  | n :: ns =>
    match byteOperand n with
    | .error e => .error e
    | .ok b =>
      match byteOperands ns with
      | .error e => .error e
      | .ok bs => .ok (b :: bs)

/-- The operation words of a line (R76), the pseudo-instructions expanded (R77); a refused line gives no word. -/
def assembleLine : Line → Except AsmError (List Word)
  | .blank => .ok []
  | .nop => .ok [encode .nop]
  | .feed n =>
    match byteOperand n with
    | .ok b => .ok [encode (.feed b)]
    | .error e => .error e
  | .take => .ok [encode .take]
  | .reset => .ok [encode .reset]
  | .status => .ok [encode .status]
  | .feeds ns =>
    match byteOperands ns with
    | .ok bs => .ok (feedsWords bs)
    | .error e => .error e
  | .frame cmd =>
    match buildFrame cmd with
    | .ok bs => .ok (feedsWords bs)
    | .error e => .error (.frame e)

/-- A blank of the source text. -/
def isBlank (ch : Char) : Bool := ch = ' ' || ch = '\t' || ch = '\r'

/-- The text without blanks at its ends. -/
def trim (cs : List Char) : List Char := ((cs.dropWhile isBlank).reverse.dropWhile isBlank).reverse

/-- The value of a digit in a base up to 16; letters in lower case. -/
def digitValue (base : Nat) (ch : Char) : Option Nat :=
  let v :=
    if '0' ≤ ch ∧ ch ≤ '9' then ch.toNat - '0'.toNat
    else if 'a' ≤ ch ∧ ch ≤ 'f' then ch.toNat - 'a'.toNat + 10
    else 16
  if v < base then some v else none

/-- The value of digits after those already read. -/
def digitsFrom (base acc : Nat) : List Char → Option Nat
  | [] => some acc
  | ch :: cs =>
    match digitValue base ch with
    | some v => digitsFrom base (acc * base + v) cs
    | none => none

/-- A number, "in hex (`0x81`) or decimal (`129`)" (R76). -/
def parseNumber : List Char → Option Nat
  | [] => none
  | '0' :: 'x' :: d :: ds => digitsFrom 16 0 (d :: ds)
  | ds => digitsFrom 10 0 ds

/-- The pieces between the commas of a text. -/
def splitCommas : List Char → List (List Char)
  | [] => [[]]
  | ',' :: cs => [] :: splitCommas cs
  | ch :: cs =>
    match splitCommas cs with
    | [] => [[ch]]
    | p :: ps => (ch :: p) :: ps

/-- All the numbers, or none if one piece is no number. -/
def parseNumbers : List (List Char) → Option (List Nat)
  | [] => some []
  | p :: ps =>
    match parseNumber (trim p), parseNumbers ps with
    | some n, some ns => some (n :: ns)
    | _, _ => none

/-- A list of numbers separated by commas; empty text is the empty list. -/
def parseArgs (cs : List Char) : Option (List Nat) :=
  if (trim cs).isEmpty then some [] else parseNumbers (splitCommas cs)

/-- The refused kind of a name in lower case (45_frame_formats.md R163). -/
def refusedKindNamed (name : List Char) : RefusedKind :=
  if name = "down".toList then .down
  else if name = "left".toList then .left
  else if name = "right".toList then .right
  else if name = "upleft".toList then .upLeft
  else if name = "upright".toList then .upRight
  else if name = "downleft".toList then .downLeft
  else if name = "downright".toList then .downRight
  else .unlisted (String.ofList name)

/-- A command with one argument. -/
def command1 (mk : Nat → Command) : List Nat → Option Command
  | [a] => some (mk a)
  | _ => none

/-- A command with two arguments. -/
def command2 (mk : Nat → Nat → Command) : List Nat → Option Command
  | [a, v] => some (mk a v)
  | _ => none

/-- The command of a kind's name in lower case; none where the number of its arguments is wrong. -/
def commandNamed (name : List Char) (args : List Nat) : Option Command :=
  if name = "up".toList then command2 .up args
  else if name = "stoppantilt".toList then command1 .stopPanTilt args
  else if name = "zoomin".toList then command2 .zoomIn args
  else if name = "zoomout".toList then command2 .zoomOut args
  else if name = "stopzoom".toList then command1 .stopZoom args
  else if name = "storepreset".toList then command2 .storePreset args
  else if name = "recallpreset".toList then command2 .recallPreset args
  else if name = "poweron".toList then command1 .powerOn args
  else if name = "poweroff".toList then command1 .powerOff args
  else if name = "powerinquiry".toList then command1 .powerInquiry args
  else some (.noLayout (refusedKindNamed name) args)

/-- The argument text between the parentheses of `<Kind>(<args>)`, given what follows the opening one. -/
def insideParens (cs : List Char) : Option (List Char) :=
  match (trim cs).reverse with
  | ')' :: rest => some rest.reverse
  | _ => none

/-- `<Kind>(<args>)` (R77). -/
def parseCommand (cs : List Char) : Option Command :=
  match cs.dropWhile (fun ch => ch ≠ '(') with
  | '(' :: rest =>
    match insideParens rest with
    | some args =>
      match parseArgs args with
      | some ns => commandNamed (trim (cs.takeWhile fun ch => ch ≠ '(')) ns
      | none => none
    | none => none
  | _ => none

/-- A line that takes no operand. -/
def bareLine (operands : List Char) (l : Line) : Option Line := if operands.isEmpty then some l else none

/-- A line's text, without its comment and in lower case, as a line (R76: "mnemonic first, case-insensitive"). -/
def parseBody (cs : List Char) : Option Line :=
  let name := cs.takeWhile fun ch => !isBlank ch
  let operands := trim (cs.dropWhile fun ch => !isBlank ch)
  if name.isEmpty then some .blank
  else if name = "nop".toList then bareLine operands .nop
  else if name = "feed".toList then (parseNumber operands).map .feed
  else if name = "take".toList then bareLine operands .take
  else if name = "reset".toList then bareLine operands .reset
  else if name = "status".toList then bareLine operands .status
  else if name = "feeds".toList then (parseArgs operands).map .feeds
  else if name = "frame".toList then (parseCommand operands).map .frame
  else none

/-- One line of source text (R76): "Comments begin with `;`". -/
def parseLine (cs : List Char) : Option Line :=
  parseBody (trim ((cs.takeWhile fun ch => ch ≠ ';').map Char.toLower))

/-- The lines of a text. -/
def splitLines : List Char → List (List Char)
  | [] => [[]]
  | '\n' :: cs => [] :: splitLines cs
  | ch :: cs =>
    match splitLines cs with
    | [] => [[ch]]
    | p :: ps => (ch :: p) :: ps

/-- Lines of text to operation words; the first refused line refuses the text. -/
def assembleLines : List (List Char) → Except AsmError (List Word)
  | [] => .ok []
  | l :: ls =>
    match parseLine l with
    | none => .error .badLine
    | some line =>
      match assembleLine line with
      | .error e => .error e
      | .ok ws =>
        match assembleLines ls with
        | .error e => .error e
        | .ok rest => .ok (ws ++ rest)

/-- The assembler on a whole source text. -/
def assemble (text : String) : Except AsmError (List Word) := assembleLines (splitLines text.toList)

end Sys2Proof.Machine
end

