-- ==== Sys2Proof/Machine/Instances.lean ====
section
/-! DEFINITION. Several instances side by side (20_memory.md R63, 60_exceptions.md R210): each has a state of its own and they
share nothing (notes/assumptions/20.md). -/

namespace Sys2Proof.Machine

/-- One step of instance `k`; where there is no instance `k`, nothing moves. -/
def stepInstance (k : Nat) (sys : List State) : Host.Outcome (List State) Fault Refusal :=
  match sys[k]? with
  | none => .next sys
  | some s =>
    match step s with
    | .next t => .next (sys.set k t)
    | .fault f => .fault f
    | .refused r => .refused r

end Sys2Proof.Machine
end

