-- ==== Sys2Proof/Machine/Chunks.lean ====
section
/-! DEFINITION. Framing as a function of a byte sequence: the framing function of 40_framing.md R110, the block under an eager
sink, and the source's own scan of a chunk (R106, 90_conflicts.md C4). -/

namespace Sys2Proof.Machine

/-- The result of the framing function (R110): final buffer, final overflow flag, messages in emission order, whether an
Overflow event occurred. -/
structure Framed where
  buf : List Byte
  ovf : Bool
  msgs : List Message
  overflowed : Bool
deriving DecidableEq, Repr

/-- `frame(buf, ovf, bs)` (R110). -/
def frameBytes (c : Config) (buf : List Byte) (ovf : Bool) : List Byte → Framed
  | [] => { buf := buf, ovf := ovf, msgs := [], overflowed := false }
  | b :: bs =>
    if ovf then frameBytes c buf true bs
    else if b = c.term then
      let r := frameBytes c [] false bs
      { r with msgs := (buf ++ [c.term]) :: r.msgs }
    else if buf.length < c.cap then frameBytes c (buf ++ [b]) false bs
    else { frameBytes c buf true bs with overflowed := true }

/-- One byte under an eager sink, "one that takes every message as soon as it is formed" (R110). -/
def eagerByte (c : Config) (s : State) (b : Byte) : State :=
  let t := feedOp c b s
  if t.out.isSome then takeOp t else t

/-- A byte sequence under an eager sink (R110). -/
def eagerFeed (c : Config) (s : State) (bs : List Byte) : State := bs.foldl (eagerByte c) s

/-- The source's procedure, "repeatedly scans from the current buffer start for the terminator byte; for each terminator found,
extracts the prefix up to and including it" (R100, R106): the messages, and the residue. `acc` is the part scanned so far. -/
def scanMessages (c : Config) (acc : List Byte) : List Byte → List Message × List Byte
  | [] => ([], acc)
  | b :: bs =>
    if b = c.term then
      let r := scanMessages c [] bs
      ((acc ++ [b]) :: r.1, r.2)
    else scanMessages c (acc ++ [b]) bs

/-- The source's `feed(chunk)` (R106): append the chunk, then scan. -/
def sourceFeed (c : Config) (buf chunk : List Byte) : List Message × List Byte := scanMessages c [] (buf ++ chunk)

/-- "No run of consecutive non-terminator bytes, counting the bytes already pending, is longer than `CAP`" (R106): `n` bytes are
pending. -/
def runsWithin (c : Config) (n : Nat) : List Byte → Bool
  | [] => decide (n ≤ c.cap)
  | b :: bs => if b = c.term then decide (n ≤ c.cap) && runsWithin c 0 bs else runsWithin c (n + 1) bs

end Sys2Proof.Machine
end

