-- ==== Sys2Proof/Safety.lean ====
section
/-! DEFINITION. What claims about the block speak of: the invariant of the reachable states (10_state.md R23, R25, R27), the
contract of the event history (40_framing.md R109) and the end of a run (70_reset_and_hazards.md R238). -/

namespace Sys2Proof.Machine

/-- A complete message (R27): it ends with `TERM`, no other byte of it is `TERM`, and it has `1..CAP+1` bytes. -/
abbrev MessageWf (c : Config) (m : Message) : Prop :=
  m.getLast? = some c.term ∧ (∀ b ∈ m.dropLast, b ≠ c.term) ∧ 1 ≤ m.length ∧ m.length ≤ c.msgMax

/-- The buffer invariant (R23). -/
abbrev BufWf (c : Config) (s : State) : Prop := s.buf.length ≤ c.cap ∧ ∀ b ∈ s.buf, b ≠ c.term

/-- The output slot holds a complete message or none (R27). -/
abbrev SlotWf (c : Config) (s : State) : Prop := ∀ m ∈ s.out, MessageWf c m

/-- In OVERFLOWED the buffer is frozen at `CAP` bytes (R25) and the slot is empty (40_framing.md R101). -/
abbrev OverflowWf (c : Config) (s : State) : Prop := s.ovf = true → s.buf.length = c.cap ∧ s.out = none

/-- The invariant of the block's reachable states (R23, R25, R27, R101). -/
abbrev BlockInv (c : Config) (s : State) : Prop := BufWf c s ∧ SlotWf c s ∧ OverflowWf c s

/-- Every issuer's position lies within its words (10_state.md R21). -/
abbrev PositionsWf (s : State) : Prop := ∀ a ∈ Agent.all, (s.stream a).pos ≤ (s.stream a).words.length

/-- What a reader of the event history knows after some of it: the block's fields, and whether an Overflow event is due next. -/
structure Replay where
  buf : List Byte
  ovf : Bool
  out : Option Message
  due : Bool
deriving DecidableEq, Repr

/-- A reader of the history of a block just powered on. -/
def Replay.init : Replay := { buf := [], ovf := false, out := none, due := false }

/-- What the reader knows after the block's fields are those of `s` and no event is due. -/
def Replay.of (s : State) : Replay := { buf := s.buf, ovf := s.ovf, out := s.out, due := false }

/-- Read one event of the history (10_state.md R30); none where the event may not stand there. -/
def Replay.read (c : Config) (r : Replay) (e : Event) : Option Replay :=
  match e with
  | .overflow => if r.due then some { r with ovf := true, due := false } else none
  | .input b =>
    if r.due || r.out.isSome then none
    else if r.ovf then some r
    else if b = c.term then some { r with buf := [], out := some (r.buf ++ [c.term]) }
    else if r.buf.length < c.cap then some { r with buf := r.buf ++ [b] }
    else some { r with due := true }
  | .msg m => if !r.due && r.out = some m then some { r with out := none } else none
  | .reset => if r.due then none else some Replay.init
  | .status w => if !r.due && w = statusBits r.buf r.ovf r.out then some r else none

/-- Read a history. -/
def Replay.readAll (c : Config) (r : Replay) : List Event → Option Replay
  | [] => some r
  | e :: es =>
    match r.read c e with
    | some r' => r'.readAll c es
    | none => none

/-- The history is one that the rules allow, and it accounts for the block's fields. -/
abbrev TraceInv (c : Config) (s : State) : Prop := Replay.init.readAll c s.trace = some (Replay.of s)

/-- The messages delivered, in order: "A message counts as delivered at its `Msg(m)` event" (10_state.md R30). -/
def delivered (es : List Event) : List Message :=
  es.filterMap fun e =>
    match e with
    | .msg m => some m
    | .input _ => none
    | .overflow => none
    | .reset => none
    | .status _ => none

/-- The Overflow events of a history. -/
def overflows (es : List Event) : Nat := es.count .overflow

/-- The messages formed, in the order of the terminators that formed them (40_framing.md R103, R109), as a reader of the
history sees them. -/
def formed (c : Config) (r : Replay) : List Event → List Message
  | [] => []
  | e :: es =>
    match r.read c e with
    | none => []
    | some r' =>
      match e with
      | .input b => if !r.ovf && b = c.term then (r.buf ++ [c.term]) :: formed c r' es else formed c r' es
      | .msg _ => formed c r' es
      | .overflow => formed c r' es
      | .reset => formed c r' es
      | .status _ => formed c r' es

/-- The messages formed and not discarded by a RESET while in the slot (40_framing.md R109, 41_control.md R131): `acc` holds those
of the history already read. -/
def surviving (c : Config) (r : Replay) (acc : List Message) : List Event → List Message
  | [] => acc
  | e :: es =>
    match r.read c e with
    | none => acc
    | some r' =>
      match e with
      | .input b => surviving c r' (if !r.ovf && b = c.term then acc ++ [r.buf ++ [c.term]] else acc) es
      | .msg _ => surviving c r' acc es
      | .overflow => surviving c r' acc es
      | .reset => surviving c r' (if r.out.isSome then acc.dropLast else acc) es
      | .status _ => surviving c r' acc es

/-- A block just powered on, with a schedule and the issuers' words as the host has loaded them (10_state.md R32, 70_reset_and_hazards.md
R238, notes/assumptions/1.md). -/
def State.loaded (sched : List Agent) (host source sink controller : List Word) : State :=
  { State.reset with
    sched := sched
    host := { words := host, pos := 0 }
    source := { words := source, pos := 0 }
    sink := { words := sink, pos := 0 }
    controller := { words := controller, pos := 0 } }

/-- The operation an issuer's next word stands for, if it has one and it is not reserved. -/
def State.nextOp (s : State) (a : Agent) : Option Instr :=
  match (s.stream a).next with
  | none => none
  | some w =>
    match decode w with
    | .op i => some i
    | .reserved _ => none

/-- The issuer's next operation holds (40_framing.md R101, R108). -/
def State.holds (s : State) (a : Agent) : Bool :=
  match s.nextOp a with
  | some i => !enabled i s
  | none => false

/-- Every word of every issuer has completed: the run has ended (R238). -/
def State.ended (s : State) : Bool := Agent.all.all fun a => (s.stream a).remaining.isEmpty

/-- The run is stuck at issuer `a` (R238): its next word holds, and goes on holding whatever the other agents do. -/
def Stuck (s : State) (a : Agent) : Prop :=
  ∀ (sched : List Agent) (k : Nat) (t : State), core.run k { s with sched := sched } = .next t → t.holds a = true

/-- Whether an operation of another agent can lift FEED's hold (R101): TAKE or RESET. -/
def liftsFeed : Instr → Bool
  | .nop => false
  | .feed _ => false
  | .take => true
  | .reset => true
  | .status => false

/-- Whether an operation of another agent can lift TAKE's hold (R108): FEED of a terminator. -/
def liftsTake (c : Config) : Instr → Bool
  | .nop => false
  | .feed b => decide (b = c.term)
  | .take => false
  | .reset => false
  | .status => false

/-- Whether an agent other than `a` still has an operation that satisfies `p` to come. -/
def State.othersHave (s : State) (a : Agent) (p : Instr → Bool) : Bool :=
  Agent.all.any fun b =>
    decide (b ≠ a) && (s.stream b).remaining.any fun w =>
      match decode w with
      | .op i => p i
      | .reserved _ => false

/-- A test for a stuck run (R238): "FEED with a full slot and no TAKE to come, and TAKE with an empty slot and no terminator to
come" (notes/assumptions/24.md). -/
def State.stuckTest (s : State) (a : Agent) : Bool :=
  match s.nextOp a with
  | none => false
  | some .nop => false
  | some (.feed _) => s.out.isSome && !s.othersHave a liftsFeed
  | some .take => s.out.isNone && !s.othersHave a (liftsTake Config.hw)
  | some .reset => false
  | some .status => false

/-- Every word still to come is one its issuer's role gives it (60_exceptions.md R207). -/
def State.rolesKept (s : State) : Bool :=
  Agent.all.all fun a =>
    (s.stream a).remaining.all fun w =>
      match decode w with
      | .op i => a.mayIssue i
      | .reserved _ => false

end Sys2Proof.Machine
end

