-- ==== Sys2Proof/Certificates/Slice0/Obligations.lean ====
section
/-! DEFINITION. The statements for the provers. Each docstring names the rule or the sections it formalises; where a clause rests on
the model's own choice it names the log entry. -/

open Sys2Proof Sys2Proof.Machine

/-- Words written out from the encoding table decode to their operations. Rests on 30_encoding.md section 2 (R72, R73, R74),
95_test_vectors.md section 2.1. -/
def Obligations.SampleWordsDecode : Prop :=
  decode 0b0000000000000000#16 = .op .nop ∧
  decode 0b0001000010101011#16 = .op (.feed 0xAB#8) ∧
  decode 0b0001000011111111#16 = .op (.feed 0xFF#8) ∧
  decode 0b0010000000000000#16 = .op .take ∧
  decode 0b0011000000000000#16 = .op .reset ∧
  decode 0b0100000000000000#16 = .op .status ∧
  decode 0x0001#16 = .reserved 0x0001#16 ∧
  decode 0x1100#16 = .reserved 0x1100#16 ∧
  decode 0x2001#16 = .reserved 0x2001#16 ∧
  decode 0x3080#16 = .reserved 0x3080#16 ∧
  decode 0x4100#16 = .reserved 0x4100#16 ∧
  decode 0xFFFF#16 = .reserved 0xFFFF#16

/-- Decoding the word of any well-formed operation gives that operation back. Rests on 30_encoding.md section 2 (R70, R71, R72,
R73). -/
def Obligations.DecodeOfEncodeIsTheOperation : Prop :=
  ∀ i : Instr, i.wellFormed = true → decode (encode i) = .op i

/-- Each operation has one word: a word that decodes to an operation is that operation's word. Rests on 30_encoding.md section 2
(R72, R73). -/
def Obligations.EncodeOfDecodeIsTheWord : Prop :=
  ∀ (w : Word) (i : Instr), decode w = .op i → encode i = w ∧ i.wellFormed = true

/-- Decoding is by the rows of the opcode map: one row for an operation, none for a reserved word. Formalises R72. -/
def Obligations.DecodeFollowsOpcodeRows : Prop :=
  opcodeTable = [⟨"NOP", 0x0000#16, 0xFFFF#16⟩, ⟨"FEED", 0x1000#16, 0xFF00#16⟩, ⟨"TAKE", 0x2000#16, 0xFFFF#16⟩,
    ⟨"RESET", 0x3000#16, 0xFFFF#16⟩, ⟨"STATUS", 0x4000#16, 0xFFFF#16⟩] ∧
  ∀ w : Word,
    (∀ i : Instr, decode w = .op i → (opcodeTable.filter fun r => decide (w &&& r.mask = r.pattern)).map (·.mnemonic) = [i.mnemonic]) ∧
    ((∃ v, decode w = .reserved v) ↔ opcodeTable.filter (fun r => decide (w &&& r.mask = r.pattern)) = [])

/-- A word is reserved exactly when its fields are as R74's three bullets say. Rests on 30_encoding.md section 2 (R73, R74). -/
def Obligations.ReservedWordsAreTheListedOnes : Prop :=
  ∀ w : Word,
    decode w = .reserved w ↔
      5 ≤ (opcField w).toNat ∨
      (opcField w ∈ [0#4, 2#4, 3#4, 4#4] ∧ (zField w ≠ 0#4 ∨ dataField w ≠ 0#8)) ∨
      (opcField w = 1#4 ∧ zField w ≠ 0#4)

/-- A step performs the operation that the mover's next word decodes to, and settles its position. Rests on 10_state.md section 1
(R21), 20_memory.md section 3 (R55), notes/assumptions/1.md, notes/assumptions/2.md. -/
def Obligations.StepRunsTheDecodedOperation : Prop :=
  ∀ (s : State) (w : Word) (i : Instr), s.nextWord = some w → decode w = .op i → i.wellFormed = true →
    step s =
      match exec i s.dropTurn with
      | .next t => .next (if enabled i s = true then t.advance s.mover else t)
      | .fault f => .fault f
      | .refused r => .refused r

/-- A reserved operation word is refused by name, with the word itself. Rests on 30_encoding.md section 2 (R74), 60_exceptions.md
section 1 (R202). -/
def Obligations.ReservedWordIsRefused : Prop :=
  ∀ (s : State) (w v : Word), s.nextWord = some w → decode w = .reserved v → step s = .refused (.reservedOperation w)

/-- A turn whose mover has no word left is an idle interval. Rests on 41_control.md (R133), 30_encoding.md section 4 (R78, case
4), notes/assumptions/3.md. The field result is the model's record of R75 (log entry 5). The schedule is the model's (log
entry 2). -/
def Obligations.TurnWithoutWordIsIdle : Prop :=
  ∀ s : State, s.nextWord = none → step s = .next { s with sched := s.sched.tail, result := .nothing }

/-- Only the mover's position moves, by 1, and only when its operation was enabled. Rests on 10_state.md section 1 (R21),
40_framing.md (R101, R108), notes/assumptions/2.md. The schedule is the model's (log entry 2). -/
def Obligations.PositionAdvancesExactlyOnCompletion : Prop :=
  ∀ s t : State, step s = .next t →
    (∀ a, (t.stream a).words = (s.stream a).words) ∧
    (∀ a, a ≠ s.mover → t.stream a = s.stream a) ∧
    (∀ i, s.nextOp s.mover = some i → enabled i s = true → (t.stream s.mover).pos = (s.stream s.mover).pos + 1) ∧
    (∀ i, s.nextOp s.mover = some i → enabled i s = false → (t.stream s.mover).pos = (s.stream s.mover).pos) ∧
    (s.nextOp s.mover = none → (t.stream s.mover).pos = (s.stream s.mover).pos) ∧
    t.sched = s.sched.tail

/-- withFetchWord puts its word where the next step fetches, and changes nothing of the block. Rests on 10_state.md section 1
(R21), notes/assumptions/1.md, notes/assumptions/22.md. -/
def Obligations.PlacedWordIsTheWordFetched : Prop :=
  ∀ (s : State) (w : Word),
    (s.withFetchWord 16 w.toNat).nextWord = some w ∧
    (s.withFetchWord 16 w.toNat).buf = s.buf ∧ (s.withFetchWord 16 w.toNat).ovf = s.ovf ∧
    (s.withFetchWord 16 w.toNat).out = s.out ∧ (s.withFetchWord 16 w.toNat).trace = s.trace ∧
    (s.withFetchWord 16 w.toNat).sched = s.sched ∧
    ∀ a, ((s.withFetchWord 16 w.toNat).stream a).pos = (s.stream a).pos

/-- FEED of a non-terminator with room appends the byte. Formalises R102. The field result is the model's record of R75 (log entry
5). -/
def Obligations.FeedStoresTheByte : Prop :=
  ∀ (s : State) (b : Byte), s.out = none → s.ovf = false → b ≠ Config.hw.term → s.buf.length < Config.hw.cap →
    ∃ t, exec (.feed b) s = .next t ∧
      t = { s with buf := s.buf ++ [b], trace := s.trace ++ [.input b], result := .nothing } ∧
      t.count = s.count + 1 ∧ t.logical = .accumulating ∧ causeCode Config.hw (.feed b) s = 0

/-- FEED of the terminator empties the buffer and emits the pending bytes plus the terminator. Formalises R103. The field result
is the model's record of R75 (log entry 5). -/
def Obligations.FeedTerminatorEmitsTheMessage : Prop :=
  ∀ s : State, s.out = none → s.ovf = false →
    ∃ t, exec (.feed Config.hw.term) s = .next t ∧
      t = { s with
            buf := [], out := some (s.buf ++ [Config.hw.term]), trace := s.trace ++ [.input Config.hw.term],
            result := .nothing } ∧
      statusMsgp (statusWord t) = true ∧ t.count = 0 ∧ t.logical = .empty ∧
      causeCode Config.hw (.feed Config.hw.term) s = 0

/-- FEED of a non-terminator with CAP bytes pending raises Overflow once and stores nothing. Formalises R104. The field result is
the model's record of R75 (log entry 5). -/
def Obligations.FeedOverflowsWhenFull : Prop :=
  ∀ (s : State) (b : Byte), s.out = none → s.ovf = false → b ≠ Config.hw.term → s.buf.length = Config.hw.cap →
    ∃ t, exec (.feed b) s = .next t ∧
      t = { s with ovf := true, trace := s.trace ++ [.input b, .overflow], result := .nothing } ∧
      s.logical = .accumulating ∧ t.logical = .overflowed ∧
      statusState (statusWord t) = 0b10#2 ∧ statusOvf (statusWord t) = true ∧
      causeCode Config.hw (.feed b) s = 1

/-- FEED in OVERFLOWED accepts any byte, TERM included, and discards it. Formalises R105. The field result is the model's record
of R75 (log entry 5). -/
def Obligations.FeedDiscardsInOverflow : Prop :=
  ∀ (s : State) (b : Byte), s.out = none → s.ovf = true →
    ∃ t, exec (.feed b) s = .next t ∧
      t = { s with trace := s.trace ++ [.input b], result := .nothing } ∧
      t.logical = .overflowed ∧ causeCode Config.hw (.feed b) s = 0 ∧
      (s.buf.length = 100 → statusWord t = 0x640A#16)

/-- FEED is enabled iff the slot is empty; held, it changes nothing and keeps its word; TAKE or RESET lifts the hold. Formalises
R101. The field result is the model's record of R75 (log entry 5). The schedule is the model's (log entry 2). A hold is a next
state with the block unchanged (log entry 4). -/
def Obligations.FeedHoldsBehindAFullSlot : Prop :=
  ∀ (s : State) (b : Byte),
    (enabled (.feed b) s = true ↔ s.out = none) ∧
    (s.out ≠ none → exec (.feed b) s = .next { s with result := .nothing }) ∧
    (s.out ≠ none → s.nextOp s.mover = some (.feed b) → step s = .next { s with sched := s.sched.tail, result := .nothing }) ∧
    (∀ t, exec .take s = .next t → enabled (.feed b) t = true) ∧
    (∀ t, exec .reset s = .next t → enabled (.feed b) t = true) ∧
    (BlockInv Config.hw s → s.ovf = true → enabled (.feed b) s = true)

/-- TAKE gives back the waiting message with its length and empties the slot. Formalises R107. The field result is the model's
record of R75 (log entry 5). -/
def Obligations.TakeDeliversTheMessage : Prop :=
  ∀ (s : State) (m : Message), s.out = some m →
    enabled .take s = true ∧
    ∃ t, exec .take s = .next t ∧
      t = { s with
            out := none, trace := s.trace ++ [.msg m], result := .message (BitVec.ofNat 8 m.length) m } ∧
      (BlockInv Config.hw s → (BitVec.ofNat 8 m.length).toNat = m.length ∧ 1 ≤ m.length ∧ m.length ≤ Config.hw.cap + 1) ∧
      statusMsgp (statusWord t) = false ∧ (∀ b, enabled (.feed b) t = true) ∧ causeCode Config.hw .take s = 0

/-- TAKE is enabled iff the slot is full; held, it changes nothing and gives nothing back, stale or speculative. Formalises R108.
The field result is the model's record of R75 (log entry 5). The schedule is the model's (log entry 2). A hold is a next state
with the block unchanged (log entry 4). -/
def Obligations.TakeHoldsOnAnEmptySlot : Prop :=
  ∀ s : State,
    (enabled .take s = true ↔ s.out ≠ none) ∧
    (s.out = none →
      exec .take s = .next { s with result := .nothing } ∧
      (s.nextOp s.mover = some .take → step s = .next { s with sched := s.sched.tail, result := .nothing }) ∧
      (∀ i t, exec i s = .next t → enabled .take t = true → i = .feed Config.hw.term) ∧
      (s.ovf = false → ∀ t, exec (.feed Config.hw.term) s = .next t → enabled .take t = true))

/-- RESET empties the buffer and the slot and clears overflow, in every state. Formalises R131. The field result is the model's
record of R75 (log entry 5). -/
def Obligations.ResetClearsTheBlock : Prop :=
  ∀ s : State,
    enabled .reset s = true ∧ causeCode Config.hw .reset s = 0 ∧
    ∃ t, exec .reset s = .next t ∧
      t = { s with buf := [], ovf := false, out := none, trace := s.trace ++ [.reset], result := .nothing } ∧
      statusWord t = 0x0000#16 ∧ t.logical = .empty ∧
      (∃ u, exec .reset t = .next u ∧ u.buf = t.buf ∧ u.ovf = t.ovf ∧ u.out = t.out) ∧
      (∀ i v, s.ovf = true → exec i s = .next v → v.ovf = false → i = .reset)

/-- STATUS gives back the word of the state and changes nothing but the history. Formalises R132. The field result is the model's
record of R75 (log entry 5). -/
def Obligations.StatusReturnsTheWord : Prop :=
  decode 0x4000#16 = .op .status ∧
  (∀ s : State, enabled .status s = true ∧ causeCode Config.hw .status s = 0 ∧
    ∃ t w, exec .status s = .next t ∧ sampleStatus s = .next t ∧ statusPort s = w ∧ t = { s with trace := s.trace ++ [.status w], result := .status w } ∧
      w.extractLsb' 8 8 = BitVec.ofNat 8 s.buf.length ∧ w.extractLsb' 4 4 = 0#4 ∧ w.getLsbD 3 = s.ovf ∧
      w.getLsbD 2 = s.out.isSome ∧
      w.extractLsb' 0 2 = (if s.ovf = true then 0b10#2 else if s.buf.length = 0 then 0b00#2 else 0b01#2) ∧
      w.extractLsb' 0 2 ≠ 0b11#2) ∧
  (∀ (c : Config) (s : State), c.legal = true → BlockInv c s → s.ovf = true →
    statusWord s = (BitVec.ofNat 16 c.cap <<< 8) ||| 0x000A#16) ∧
  statusBits [0x81#8] false (some [0x81#8, 0x09#8, 0x04#8, 0x00#8, 0xFF#8]) = 0x0105#16

/-- NOP is always enabled, changes nothing and lifts no hold. Formalises R133. The field result is the model's record of R75 (log
entry 5). -/
def Obligations.NopChangesNothing : Prop :=
  ∀ s : State,
    enabled .nop s = true ∧ causeCode Config.hw .nop s = 0 ∧
    exec .nop s = .next { s with result := .nothing } ∧
    (∀ i, enabled i { s with result := .nothing } = enabled i s) ∧
    statusWord { State.reset with result := .nothing } = 0x0000#16

/-- No operation faults or is refused, in any state. Rests on 60_exceptions.md section 1 (R202), 41_control.md (R130),
41_control.md (R132). A hold is a next state with the block unchanged (log entry 4). -/
def Obligations.EveryOperationCompletesOrHolds : Prop :=
  ∀ (i : Instr) (s : State),
    (∃ t, exec i s = .next t) ∧ (i = .reset ∨ i = .status ∨ i = .nop → enabled i s = true)

/-- Frame: no operation changes the schedule or any issuer's words or position. Rests on 10_state.md section 1 (R21),
notes/assumptions/1.md. The schedule is the model's (log entry 2). -/
def Obligations.OperationsLeaveTheHostAlone : Prop :=
  ∀ (i : Instr) (s t : State), exec i s = .next t →
    t.sched = s.sched ∧ t.host = s.host ∧ t.source = s.source ∧ t.sink = s.sink ∧ t.controller = s.controller

/-- The buffer changes only by FEED's append, FEED's drain on a terminator, and RESET's drain. Rests on 20_memory.md section 1
(R50), 70_reset_and_hazards.md section 1 (R230). -/
def Obligations.BufferIsReachedByAppendAndDrainOnly : Prop :=
  ∀ (i : Instr) (s t : State), exec i s = .next t →
    (t.buf = s.buf ∨
      (∃ b, i = .feed b ∧ b ≠ Config.hw.term ∧ t.buf = s.buf ++ [b]) ∨
      (i = .feed Config.hw.term ∧ t.buf = [] ∧ t.out = some (s.buf ++ [Config.hw.term])) ∨
      (i = .reset ∧ t.buf = [])) ∧
    (s.buf.length ≤ Config.hw.cap → t.buf.length ≤ Config.hw.cap)

/-- Each operation appends exactly the events R30 lists. Formalises R30. -/
def Obligations.HistoryRecordsExactlyTheEvents : Prop :=
  ∀ (i : Instr) (s t : State), exec i s = .next t →
    t.trace = s.trace ++
      match i with
      | .nop => []
      | .feed b => if s.out.isSome = true then [] else .input b :: (if s.ovf = false ∧ t.ovf = true then [.overflow] else [])
      | .take => s.out.toList.map .msg
      | .reset => [.reset]
      | .status => [.status (statusWord s)]

/-- ovf is set only by an overflowing FEED, cleared only by RESET, and while it is 1 nothing is stored or emitted. Formalises R26. -/
def Obligations.OverflowFlagRules : Prop :=
  State.reset.ovf = false ∧
  (∀ (i : Instr) (s t : State), exec i s = .next t →
    (s.ovf = false → t.ovf = true →
      ∃ b, i = .feed b ∧ s.out = none ∧ b ≠ Config.hw.term ∧ Config.hw.cap ≤ s.buf.length) ∧
    (s.ovf = true → t.ovf = false → i = .reset) ∧
    (s.ovf = true → i ≠ .reset → t.buf = s.buf ∧ (t.out = s.out ∨ t.out = none))) ∧
  (∀ s t : State, step s = .next t → s.ovf = true → t.ovf = false → s.nextOp s.mover = some .reset)

/-- The cause code is 1 exactly for a FEED that enters OVERFLOWED, else 0. Formalises R200. -/
def Obligations.OverflowIsTheOnlyException : Prop :=
  (∀ (i : Instr) (s t : State), BlockInv Config.hw s → exec i s = .next t →
    (causeCode Config.hw i s = 0 ∨ causeCode Config.hw i s = 1) ∧
    (causeCode Config.hw i s = 1 ↔
      ∃ b, i = .feed b ∧ s.out = none ∧ s.ovf = false ∧ b ≠ Config.hw.term ∧ s.buf.length = Config.hw.cap) ∧
    (causeCode Config.hw i s = 1 ↔ s.ovf = false ∧ t.ovf = true) ∧
    (∀ b, i = .feed b → causeCode Config.hw i s = 1 →
      statusOvf (statusWord t) = true ∧ statusState (statusWord t) = 0b10#2 ∧ ovfPort t = true ∧
      t.trace = s.trace ++ [.input b, .overflow] ∧ t.buf = s.buf)) ∧
  (∀ (c : Config) (s : State) (pre mid post : List Event), TraceInv c s →
    s.trace = pre ++ .overflow :: (mid ++ .overflow :: post) → .reset ∈ mid)

/-- The logical state is R24's function and moves by R24's transitions only. Formalises R24. -/
def Obligations.LogicalStateTransitions : Prop :=
  ∀ s : State, BlockInv Config.hw s →
    (s.logical = .overflowed ↔ s.ovf = true) ∧
    (s.logical = .empty ↔ s.ovf = false ∧ s.buf.length = 0) ∧
    (s.logical = .accumulating ↔ s.ovf = false ∧ 1 ≤ s.buf.length ∧ s.buf.length ≤ Config.hw.cap) ∧
    (∀ b t, s.out = none → exec (.feed b) s = .next t →
      (s.logical = .empty → b ≠ Config.hw.term → t.logical = .accumulating) ∧
      (s.logical = .empty → b = Config.hw.term → t.logical = .empty) ∧
      (s.logical = .accumulating → b = Config.hw.term → t.logical = .empty) ∧
      (s.logical = .accumulating → b ≠ Config.hw.term → s.buf.length < Config.hw.cap → t.logical = .accumulating) ∧
      (s.logical = .accumulating → b ≠ Config.hw.term → s.buf.length = Config.hw.cap → t.logical = .overflowed) ∧
      (s.logical = .overflowed → t.logical = .overflowed)) ∧
    (∀ t, exec .reset s = .next t → t.logical = .empty) ∧
    (∀ i t, exec i s = .next t → i = .nop ∨ i = .take ∨ i = .status ∨ ((∃ b, i = .feed b) ∧ s.out ≠ none) → t.logical = s.logical)

/-- COUNT is 0..CAP, fits 8 bits, rises by one per stored byte, returns to 0, and is frozen at CAP in OVERFLOWED. Formalises R25. -/
def Obligations.CountNeverWraps : Prop :=
  ∀ (c : Config) (s : State), c.legal = true → BlockInv c s →
    s.count ≤ c.cap ∧ (statusCount (statusWord s)).toNat = s.count ∧
    (∀ b, b ≠ c.term → (feedOp c b s).count = s.count + (if s.out = none ∧ s.ovf = false ∧ s.count < c.cap then 1 else 0)) ∧
    (s.out = none → s.ovf = false → (feedOp c c.term s).count = 0) ∧
    (resetOp s).count = 0 ∧ (takeOp s).count = s.count ∧ (statusOp s).count = s.count ∧ (nopOp s).count = s.count ∧
    (s.ovf = true → s.count = c.cap ∧ ∀ b, (feedOp c b s).count = c.cap)

/-- The STATUS word has R28's fields in every state, and 0x0000 at reset. Formalises R28. -/
def Obligations.StatusWordLayout : Prop :=
  (∀ s : State,
    statusState (statusWord s) = (match s.logical with | .empty => 0b00#2 | .accumulating => 0b01#2 | .overflowed => 0b10#2) ∧
    statusState (statusWord s) ≠ 0b11#2 ∧
    (statusMsgp (statusWord s) = true ↔ ∃ m, s.out = some m) ∧
    statusOvf (statusWord s) = s.ovf ∧
    (statusOvf (statusWord s) = true ↔ statusState (statusWord s) = 0b10#2) ∧
    statusReserved (statusWord s) = 0#4 ∧
    (BlockInv Config.hw s → (statusCount (statusWord s)).toNat = s.buf.length ∧ s.buf.length ≤ Config.hw.cap) ∧
    statusPort s = statusWord s) ∧
  statusWord State.reset = 0x0000#16

/-- The two levels are set and cleared by R203's operations only and are never both 1. Formalises R203. -/
def Obligations.NotificationLevels : Prop :=
  (∀ (i : Instr) (s t : State), exec i s = .next t →
    (outValid s = false → outValid t = true → i = .feed Config.hw.term) ∧
    (outValid s = true → outValid t = false → i = .take ∨ i = .reset) ∧
    (ovfPort s = false → ovfPort t = true → ∃ b, i = .feed b ∧ b ≠ Config.hw.term ∧ Config.hw.cap ≤ s.buf.length) ∧
    (ovfPort s = true → ovfPort t = false → i = .reset)) ∧
  (∀ s : State, outValid s = statusMsgp (statusWord s) ∧ ovfPort s = statusOvf (statusWord s)) ∧
  (∀ s : State, BlockInv Config.hw s → ¬ (outValid s = true ∧ ovfPort s = true))

/-- An enabled FEED always changes state, a second TAKE delivers nothing, STATUS and RESET are idempotent. Formalises R56. The
field result is the model's record of R75 (log entry 5). -/
def Obligations.SideEffectsOfAccess : Prop :=
  ∀ s : State,
    (∀ b t, s.out = none → exec (.feed b) s = .next t → s.trace.length < t.trace.length) ∧
    (∀ t, s.out ≠ none → exec .take s = .next t →
      t.out = none ∧ exec .take t = .next { t with result := .nothing }) ∧
    (∀ t, exec .status s = .next t →
      t.buf = s.buf ∧ t.ovf = s.ovf ∧ t.out = s.out ∧ ∃ u, exec .status t = .next u ∧ u.result = t.result) ∧
    (∀ t u, exec .reset s = .next t → exec .reset t = .next u →
      u.buf = t.buf ∧ u.ovf = t.ovf ∧ u.out = t.out ∧ u.result = t.result)

/-- No operation both emits a message and overflows. Rests on 60_exceptions.md section 2 (R204), 40_framing.md (R100). -/
def Obligations.OneOutcomePerOperation : Prop :=
  ∀ (i : Instr) (s t : State), exec i s = .next t →
    ¬ (s.out = none ∧ t.out ≠ none ∧ s.ovf = false ∧ t.ovf = true) ∧
    ¬ (s.buf.length < t.buf.length ∧ (t.out ≠ s.out ∨ t.ovf ≠ s.ovf))

/-- The power-on state, and the state after RESET, are R32's. Formalises R32. -/
def Obligations.ResetStateValues : Prop :=
  (State.reset.buf = [] ∧ State.reset.ovf = false ∧ State.reset.out = none ∧ State.reset.logical = .empty ∧
    statusWord State.reset = 0x0000#16 ∧ State.reset.trace = []) ∧
  (∀ s t : State, exec .reset s = .next t →
    t.buf = State.reset.buf ∧ t.ovf = State.reset.ovf ∧ t.out = State.reset.out ∧ t.logical = .empty ∧
    statusWord t = 0x0000#16 ∧ t.trace = s.trace ++ [.reset])

/-- The block invariant, the position invariant and the history invariant hold at power-on, whatever the host has loaded. Rests on
10_state.md sections 2 and 6 (R23, R27, R32), 10_state.md section 1 (R21). The schedule is the model's (log entry 2). How
words are loaded is the model's (log entry 1). -/
def Obligations.InvariantsHoldAtPowerOn : Prop :=
  ∀ (c : Config) (sched : List Agent) (h so si co : List Word),
    BlockInv c (State.loaded sched h so si co) ∧ PositionsWf (State.loaded sched h so si co) ∧
    TraceInv c (State.loaded sched h so si co) ∧ BlockInv c State.reset ∧ PositionsWf State.reset ∧ TraceInv c State.reset

/-- Every step keeps the block invariant. Rests on 10_state.md section 2 (R23, R25, R27), 40_framing.md (R101). -/
def Obligations.StepKeepsBlockInvariant : Prop :=
  ∀ s t : State, BlockInv Config.hw s → step s = .next t → BlockInv Config.hw t

/-- In every reachable state, for every program, schedule and length of run, the buffer and the slot are as R23 and R27 say. Rests
on 10_state.md section 2 (R23, R27), notes/assumptions/1.md, notes/assumptions/2.md. The schedule is the model's (log entry
2). How words are loaded is the model's (log entry 1). -/
def Obligations.ReachableStatesMeetTheInvariant : Prop :=
  (∀ (sched : List Agent) (h so si co : List Word) (k : Nat) (t : State),
    core.run k (State.loaded sched h so si co) = .next t →
      t.buf.length ≤ Config.hw.cap ∧ (∀ b ∈ t.buf, b ≠ Config.hw.term) ∧
      (∀ m, t.out = some m →
        1 ≤ m.length ∧ m.length ≤ Config.hw.cap + 1 ∧ m.getLast? = some Config.hw.term ∧
        (∀ b ∈ m.dropLast, b ≠ Config.hw.term) ∧ ∀ b, enabled (.feed b) t = false)) ∧
  (∀ s t : State, exec .take s = .next t ∨ exec .reset s = .next t → t.out = none) ∧
  State.reset.out = none

/-- For every instance, whatever its CAP and TERM, each operation keeps the block invariant. Rests on 00_scope.md section 4 (R6),
10_state.md section 2 (R23, R27). -/
def Obligations.OperationsKeepTheInvariantForEveryCapacity : Prop :=
  ∀ (c : Config) (s : State), BlockInv c s →
    (∀ b, BlockInv c (feedOp c b s)) ∧ BlockInv c (takeOp s) ∧ BlockInv c (resetOp s) ∧ BlockInv c (statusOp s) ∧ BlockInv c (nopOp s)

/-- Every step keeps every issuer's position within its words. Rests on 10_state.md section 1 (R21), notes/assumptions/1.md. -/
def Obligations.StepKeepsPositions : Prop :=
  ∀ s t : State, PositionsWf s → step s = .next t → PositionsWf t

/-- Every step keeps the history true: reading the trace gives the block's fields. Rests on 10_state.md section 4 (R30),
40_framing.md section 4 (R109). -/
def Obligations.StepKeepsHistoryInvariant : Prop :=
  ∀ s t : State, TraceInv Config.hw s → step s = .next t → TraceInv Config.hw t

/-- The delivery contract: complete messages, each at most once, in terminator order, none between Overflow and Reset. Formalises
R109. -/
def Obligations.NotificationContract : Prop :=
  ∀ (c : Config) (s : State), TraceInv c s →
    (∀ m, .msg m ∈ s.trace → MessageWf c m) ∧
    (delivered s.trace).Sublist (formed c Replay.init s.trace) ∧
    surviving c Replay.init [] s.trace = delivered s.trace ++ s.out.toList ∧
    (∀ pre mid post m, s.trace = pre ++ .overflow :: (mid ++ .msg m :: post) → .reset ∈ mid)

/-- Chunk invariance of the framing function. Formalises R110. -/
def Obligations.FramingFunctionIsChunkInvariant : Prop :=
  (∀ (c : Config) (buf : List Byte) (ovf : Bool), frameBytes c buf ovf [] = ⟨buf, ovf, [], false⟩) ∧
  (∀ (c : Config) (buf bs : List Byte) (b : Byte),
    frameBytes c buf true (b :: bs) = frameBytes c buf true bs ∧
    (b = c.term → ∀ B ovf ms e, frameBytes c [] false bs = ⟨B, ovf, ms, e⟩ →
      frameBytes c buf false (b :: bs) = ⟨B, ovf, (buf ++ [c.term]) :: ms, e⟩) ∧
    (b ≠ c.term → buf.length < c.cap → frameBytes c buf false (b :: bs) = frameBytes c (buf ++ [b]) false bs) ∧
    (b ≠ c.term → c.cap ≤ buf.length → ∀ B ovf ms e, frameBytes c buf true bs = ⟨B, ovf, ms, e⟩ →
      frameBytes c buf false (b :: bs) = ⟨B, ovf, ms, true⟩)) ∧
  (∀ (c : Config) (buf : List Byte) (ovf : Bool) (c1 c2 : List Byte),
    frameBytes c buf ovf (c1 ++ c2) =
      { buf := (frameBytes c (frameBytes c buf ovf c1).buf (frameBytes c buf ovf c1).ovf c2).buf
        ovf := (frameBytes c (frameBytes c buf ovf c1).buf (frameBytes c buf ovf c1).ovf c2).ovf
        msgs := (frameBytes c buf ovf c1).msgs ++ (frameBytes c (frameBytes c buf ovf c1).buf (frameBytes c buf ovf c1).ovf c2).msgs
        overflowed := (frameBytes c buf ovf c1).overflowed ||
          (frameBytes c (frameBytes c buf ovf c1).buf (frameBytes c buf ovf c1).ovf c2).overflowed }) ∧
  (∀ (c : Config) (s : State) (bs : List Byte), s.out = none →
    (eagerFeed c s bs).buf = (frameBytes c s.buf s.ovf bs).buf ∧ (eagerFeed c s bs).ovf = (frameBytes c s.buf s.ovf bs).ovf)

/-- The block under an eager sink computes the framing function. Rests on 40_framing.md section 4 (R110), 40_framing.md (R102,
R103, R104, R105, R107). The schedule is the model's (log entry 2). -/
def Obligations.EagerSinkRunsTheFramingFunction : Prop :=
  ∀ (c : Config) (s : State) (bs : List Byte), s.out = none →
    (eagerFeed c s bs).buf = (frameBytes c s.buf s.ovf bs).buf ∧
    (eagerFeed c s bs).ovf = (frameBytes c s.buf s.ovf bs).ovf ∧
    (eagerFeed c s bs).out = none ∧
    delivered (eagerFeed c s bs).trace = delivered s.trace ++ (frameBytes c s.buf s.ovf bs).msgs ∧
    overflows (eagerFeed c s bs).trace =
      overflows s.trace + (if (frameBytes c s.buf s.ovf bs).overflowed = true then 1 else 0) ∧
    (eagerFeed c s bs).sched = s.sched ∧ ∀ a, (eagerFeed c s bs).stream a = s.stream a

/-- Without overflow the messages followed by the residue are byte-identical to what was pending and fed. Rests on 20_memory.md
section 2 (R52), 40_framing.md section 4 (R110). -/
def Obligations.FramingLosesNoByte : Prop :=
  ∀ (c : Config) (buf bs : List Byte), (frameBytes c buf false bs).overflowed = false →
    (frameBytes c buf false bs).msgs.flatten ++ (frameBytes c buf false bs).buf = buf ++ bs ∧
    (buf.length ≤ c.cap → (∀ b ∈ buf, b ≠ c.term) → ∀ m ∈ (frameBytes c buf false bs).msgs, MessageWf c m)

/-- Where no unterminated run exceeds CAP, byte-at-a-time framing is the source's append-then-scan. Rests on 40_framing.md section
2 (R106), 90_conflicts.md C4. -/
def Obligations.FramingAgreesWithTheSourceScan : Prop :=
  ∀ (c : Config) (buf chunk : List Byte), (∀ b ∈ buf, b ≠ c.term) → runsWithin c buf.length chunk = true →
    frameBytes c buf false chunk =
      { buf := (sourceFeed c buf chunk).2, ovf := false, msgs := (sourceFeed c buf chunk).1, overflowed := false }

/-- After a RESET in the middle of a message its tail is emitted as a message of its own. Rests on 70_reset_and_hazards.md section
2 (R235, R236). -/
def Obligations.ResetInMidMessageEmitsTheTail : Prop :=
  ∀ (s r : State) (tail : List Byte), exec .reset s = .next r →
    (∀ b ∈ tail, b ≠ Config.hw.term) → tail.length ≤ Config.hw.cap →
    delivered (eagerFeed Config.hw r (tail ++ [Config.hw.term])).trace = delivered s.trace ++ [tail ++ [Config.hw.term]] ∧
    (eagerFeed Config.hw r (tail ++ [Config.hw.term])).logical = .empty ∧
    (eagerFeed Config.hw r (tail ++ [Config.hw.term])).out = none

/-- The ten command frames have the bytes their rules lay out, for every argument in its domain. Formalises R155, R158, R159,
R160, R161, R162. -/
def Obligations.FrameLayouts : Prop :=
  (∀ a p, 1 ≤ a → a ≤ 15 → 1 ≤ p → p ≤ 24 →
    buildFrame (.up a p) = .ok ([0x80 + a, 0x01, 0x06, 0x01, p, 0x00, 0x03, 0x01, 0xFF].map (BitVec.ofNat 8))) ∧
  (∀ a, 1 ≤ a → a ≤ 15 →
    buildFrame (.stopPanTilt a) = .ok ([0x80 + a, 0x01, 0x06, 0x01, 0x00, 0x00, 0x03, 0x03, 0xFF].map (BitVec.ofNat 8)) ∧
    buildFrame (.stopZoom a) = .ok ([0x80 + a, 0x01, 0x04, 0x07, 0x00, 0xFF].map (BitVec.ofNat 8)) ∧
    buildFrame (.powerOn a) = .ok ([0x80 + a, 0x01, 0x04, 0x00, 0x02, 0xFF].map (BitVec.ofNat 8)) ∧
    buildFrame (.powerOff a) = .ok ([0x80 + a, 0x01, 0x04, 0x00, 0x03, 0xFF].map (BitVec.ofNat 8)) ∧
    buildFrame (.powerInquiry a) = .ok ([0x80 + a, 0x09, 0x04, 0x00, 0xFF].map (BitVec.ofNat 8))) ∧
  (∀ a z, 1 ≤ a → a ≤ 15 → z ≤ 7 →
    buildFrame (.zoomIn a z) = .ok ([0x80 + a, 0x01, 0x04, 0x07, 0x20 + z, 0xFF].map (BitVec.ofNat 8)) ∧
    buildFrame (.zoomOut a z) = .ok ([0x80 + a, 0x01, 0x04, 0x07, 0x30 + z, 0xFF].map (BitVec.ofNat 8))) ∧
  (∀ a i, 1 ≤ a → a ≤ 15 → i ≤ 15 →
    buildFrame (.storePreset a i) = .ok ([0x80 + a, 0x01, 0x04, 0x3F, 0x01, i, 0xFF].map (BitVec.ofNat 8)) ∧
    buildFrame (.recallPreset a i) = .ok ([0x80 + a, 0x01, 0x04, 0x3F, 0x02, i, 0xFF].map (BitVec.ofNat 8))) ∧
  (∀ a v bs,
    (buildFrame (.up a v) = .ok bs → 1 ≤ a ∧ a ≤ 15 ∧ 1 ≤ v ∧ v ≤ 24) ∧
    (buildFrame (.zoomIn a v) = .ok bs ∨ buildFrame (.zoomOut a v) = .ok bs → 1 ≤ a ∧ a ≤ 15 ∧ v ≤ 7) ∧
    (buildFrame (.storePreset a v) = .ok bs ∨ buildFrame (.recallPreset a v) = .ok bs → 1 ≤ a ∧ a ≤ 15 ∧ v ≤ 15) ∧
    (buildFrame (.stopPanTilt a) = .ok bs ∨ buildFrame (.stopZoom a) = .ok bs ∨ buildFrame (.powerOn a) = .ok bs ∨
      buildFrame (.powerOff a) = .ok bs ∨ buildFrame (.powerInquiry a) = .ok bs → 1 ≤ a ∧ a ≤ 15))

/-- Every frame built begins with 0x80 | A, ends with 0xFF and is 5 to 9 bytes long. Rests on 45_frame_formats.md section 2 (R153,
R154). -/
def Obligations.FramesHaveHeaderLengthAndTerminator : Prop :=
  (∀ a v args,
    commandLength (.up a v) = some 9 ∧ commandLength (.stopPanTilt a) = some 9 ∧
    (∀ k ∈ [RefusedKind.down, .left, .right, .upLeft, .upRight, .downLeft, .downRight],
      commandLength (.noLayout k args) = some 9) ∧
    commandLength (.storePreset a v) = some 7 ∧ commandLength (.recallPreset a v) = some 7 ∧
    commandLength (.zoomIn a v) = some 6 ∧ commandLength (.zoomOut a v) = some 6 ∧ commandLength (.stopZoom a) = some 6 ∧
    commandLength (.powerOn a) = some 6 ∧ commandLength (.powerOff a) = some 6 ∧
    commandLength (.powerInquiry a) = some 5) ∧
  ∀ (cmd : Command) (bs : List Byte), buildFrame cmd = .ok bs →
    (∃ a rest, (.address, a) ∈ commandFields cmd ∧ 1 ≤ a ∧ a ≤ 15 ∧
      bs = (0x80#8 ||| BitVec.ofNat 8 a) :: rest ∧
      ((0x80#8 ||| BitVec.ofNat 8 a).extractLsb' 4 4 = 0b1000#4 ∧ ((0x80#8 ||| BitVec.ofNat 8 a).extractLsb' 0 4).toNat = a) ∧
      (0x80#8 ||| BitVec.ofNat 8 a) ≠ 0x80#8 ∧ (0x80#8 ||| BitVec.ofNat 8 a) ≠ 0xFF#8) ∧
    bs.getLast? = some 0xFF#8 ∧ commandLength cmd = some bs.length ∧ 5 ≤ bs.length ∧ bs.length ≤ 9

/-- A frame is built iff every field is in its domain; else RangeError names the first field outside, in R152's order. Formalises
R151, R152. -/
def Obligations.RangeErrorNamesTheFirstFieldOutside : Prop :=
  (∀ v, (inDomain .address v = true ↔ 1 ≤ v ∧ v ≤ 15) ∧ (inDomain .panSpeed v = true ↔ 1 ≤ v ∧ v ≤ 24) ∧
    (inDomain .tiltSpeed v = true ↔ 1 ≤ v ∧ v ≤ 20) ∧ (inDomain .zoomSpeed v = true ↔ v ≤ 7) ∧
    (inDomain .presetIndex v = true ↔ v ≤ 15)) ∧
  (∀ cmd : Command, refusedKindOf cmd = none →
    ((∃ bs, buildFrame cmd = .ok bs) ↔ ∀ fv ∈ commandFields cmd, inDomain fv.1 fv.2 = true) ∧
    (∀ f v lo hi, buildFrame cmd = .error (.rangeError f v lo hi) ↔
      ∃ pre post, commandFields cmd = pre ++ (f, v) :: post ∧ (∀ fv ∈ pre, inDomain fv.1 fv.2 = true) ∧
        inDomain f v = false ∧ lo = fieldLo f ∧ hi = fieldHi f) ∧
    ((commandFields cmd).map (·.1)).Sublist [.address, .panSpeed, .tiltSpeed, .zoomSpeed, .presetIndex])

/-- FRAME refuses the kinds without a layout, by name, whatever their arguments. Rests on 45_frame_formats.md section 3 (R156,
R157, R163), notes/assumptions/13.md. -/
def Obligations.RefusedKindsHaveNoFrame : Prop :=
  ∀ (k : RefusedKind) (args : List Nat),
    buildFrame (.noLayout k args) = .error (.layoutNotInSource k) ∧
    assembleLine (.frame (.noLayout k args)) = .error (.frame (.layoutNotInSource k))

/-- Any concatenation of command frames is framed back into exactly those frames. Formalises R164. -/
def Obligations.CommandFramesRoundTrip : Prop :=
  (∀ (cmd : Command) (bs : List Byte), buildFrame cmd = .ok bs → (∀ b ∈ bs.dropLast, b ≠ 0xFF#8) ∧ bs.length ≤ 9) ∧
  (∀ (c : Config) (cmds : List Command) (frames : List (List Byte)), 8 ≤ c.cap → c.term = 0xFF#8 →
    cmds.map buildFrame = frames.map .ok →
    frameBytes c [] false frames.flatten = { buf := [], ovf := false, msgs := frames, overflowed := false } ∧
    ∀ s : State, s.logical = .empty → s.out = none →
      delivered (eagerFeed c s frames.flatten).trace = delivered s.trace ++ frames ∧
      (eagerFeed c s frames.flatten).logical = .empty ∧ overflows (eagerFeed c s frames.flatten).trace = overflows s.trace)

/-- FEEDS expands to one FEED word per byte, FRAME to the FEEDS of its bytes, and a RangeError to no word. Rests on 30_encoding.md
section 3 (R77), 40_framing.md section 2 (R106), 45_frame_formats.md section 1 (R152). -/
def Obligations.FeedsExpandsToFeedWords : Prop :=
  (∀ bs : List Byte,
    assembleLine (.feeds (bs.map BitVec.toNat)) = .ok (bs.map fun b => 0x1000#16 ||| b.setWidth 16) ∧
    (bs.map fun b => decode (0x1000#16 ||| b.setWidth 16)) = bs.map fun b => .op (.feed b)) ∧
  (∀ c1 c2 : List Byte, ∀ w1 w2, assembleLine (.feeds (c1.map BitVec.toNat)) = .ok w1 →
    assembleLine (.feeds (c2.map BitVec.toNat)) = .ok w2 →
    assembleLine (.feeds ((c1 ++ c2).map BitVec.toNat)) = .ok (w1 ++ w2)) ∧
  (∀ (cmd : Command) (bs : List Byte), buildFrame cmd = .ok bs →
    assembleLine (.frame cmd) = assembleLine (.feeds (bs.map BitVec.toNat))) ∧
  (∀ (cmd : Command) (e : FrameError), buildFrame cmd = .error e → assembleLine (.frame cmd) = .error (.frame e))

/-- The assembler takes a byte operand iff it lies in 0..255. Rests on 30_encoding.md section 3 (R76). -/
def Obligations.AssemblerAcceptsExactlyBytes : Prop :=
  (∀ n, n ≤ 255 → assembleLine (.feed n) = .ok [BitVec.ofNat 16 (0x1000 + n)]) ∧
  (∀ n, 255 < n → assembleLine (.feed n) = .error (.byteOutOfRange n)) ∧
  (∀ ns, (∃ ws, assembleLine (.feeds ns) = .ok ws) ↔ ∀ n ∈ ns, n ≤ 255) ∧
  assembleLine .nop = .ok [0x0000#16] ∧ assembleLine .take = .ok [0x2000#16] ∧
  assembleLine .reset = .ok [0x3000#16] ∧ assembleLine .status = .ok [0x4000#16]

/-- One rising edge performs exactly one operation, in the order RESET, TAKE, FEED, NOP, and never a held one. Rests on
30_encoding.md section 4 (R78), 60_exceptions.md section 2 (R204), notes/assumptions/11.md. -/
def Obligations.PortEdgePerformsOneEnabledOperation : Prop :=
  ∀ (p : PortIn) (s : State),
    (p.rst = true → clockEdge p s = exec .reset s) ∧
    (p.rst = false → s.out ≠ none → p.outReady = true → clockEdge p s = exec .take s) ∧
    (p.rst = false → s.out = none → p.inValid = true → clockEdge p s = exec (.feed p.inData) s) ∧
    (p.rst = false → s.out ≠ none → p.outReady = false → clockEdge p s = exec .nop s) ∧
    (p.rst = false → s.out = none → p.inValid = false → clockEdge p s = exec .nop s) ∧
    enabled (portOp p s) s = true ∧ (∃ t, clockEdge p s = .next t) ∧ inReady s = !outValid s

/-- While a message waits, out_len is its length and out_data has byte i in bits [8i+7:8i], whatever drives the other lanes. Rests
on 20_memory.md section 2 (R53), 30_encoding.md section 4 (R78), 10_state.md section 3 (R29). -/
def Obligations.OutDataCarriesTheMessage : Prop :=
  ∀ (c : Config) (tick : Nat) (s : State) (m : Message), c.legal = true → s.out = some m → m.length ≤ c.msgMax →
    (outLen tick s).toNat = m.length ∧
    ∀ (i : Nat) (hi : i < m.length), (outData c tick s).extractLsb' (8 * i) 8 = m[i]

/-- A step of one instance is its own step and leaves every other instance unchanged. Formalises R63. -/
def Obligations.InstancesShareNothing : Prop :=
  ∀ (k : Nat) (sys sys' : List State), stepInstance k sys = .next sys' →
    sys'.length = sys.length ∧ (∀ j, j ≠ k → sys'[j]? = sys[j]?) ∧
    (∀ s, sys[k]? = some s → ∃ t, step s = .next t ∧ sys'[k]? = some t)

/-- A FEED held behind a full slot completes after the sink's TAKE. Rests on 40_framing.md (R101, R107), 95_test_vectors.md T4,
notes/assumptions/2.md. -/
def Obligations.HeldFeedCompletesAfterTheTake : Prop :=
  ∀ (s : State) (m : Message) (b : Byte) (rest : List Agent),
    s.out = some m → s.sched = .source :: .sink :: .source :: rest →
    s.nextOp .source = some (.feed b) → s.nextOp .sink = some .take →
    (∃ u, step s = .next u ∧ u.source = s.source ∧ u.buf = s.buf ∧ u.ovf = s.ovf ∧ u.out = s.out ∧ u.trace = s.trace) ∧
    ∃ t, core.run 3 s = .next t ∧ t.source.pos = s.source.pos + 1 ∧ t.sink.pos = s.sink.pos + 1 ∧
      (s.trace ++ [.msg m, .input b]) <+: t.trace ∧ t.sched = rest

/-- A FEED on a full slot with no TAKE or RESET to come, or a TAKE on an empty slot with no terminator to come, holds for ever.
Rests on 70_reset_and_hazards.md section 3 (R233, R238), notes/assumptions/24.md. -/
def Obligations.StuckTestFindsStuckRuns : Prop :=
  ∀ (s : State) (a : Agent), s.stuckTest a = true → Stuck s a

/-- Once every word has completed the block keeps its end state. Rests on 70_reset_and_hazards.md section 3 (R238),
notes/assumptions/3.md. -/
def Obligations.EndedRunKeepsTheBlock : Prop :=
  ∀ (s : State) (k : Nat), s.ended = true →
    ∃ t, core.run k s = .next t ∧ t.buf = s.buf ∧ t.ovf = s.ovf ∧ t.out = s.out ∧ t.trace = s.trace ∧ t.ended = true

/-- A cycle in which the status port is sampled is that cycle with one Status event of the port's word before its edge's events.
Rests on 41_control.md (R132), 30_encoding.md section 4 (R78), 10_state.md section 4 (R30), notes/assumptions/11.md. The field
result is the model's record of R75 (log entry 5). The schedule is the model's (log entry 2). -/
def Obligations.SampledStatusIsAStatusOperation : Prop :=
  ∀ (p : PortIn) (s : State),
    (∃ u v es, clockEdge p s = .next v ∧ clockCycle false p s = .next v ∧ clockCycle true p s = .next u ∧
      u.buf = v.buf ∧ u.ovf = v.ovf ∧ u.out = v.out ∧ u.result = v.result ∧ u.sched = v.sched ∧
      (∀ a, u.stream a = v.stream a) ∧
      v.trace = s.trace ++ es ∧ u.trace = s.trace ++ .status (statusPort s) :: es) ∧
    ∀ u, clockCycle true p s = .next u →
      (BlockInv Config.hw s → BlockInv Config.hw u) ∧ (TraceInv Config.hw s → TraceInv Config.hw u)

/-- Every step keeps a stuck issuer stuck: its word, the slot and the hold stay as they are. Rests on 70_reset_and_hazards.md
section 3 (R233, R238), 40_framing.md (R101, R108), notes/assumptions/24.md. A hold is a next state with the block unchanged
(log entry 4). -/
def Obligations.StepKeepsStuckIssuer : Prop :=
  ∀ (s t : State) (a : Agent), s.stuckTest a = true → step s = .next t →
    t.stuckTest a = true ∧ t.holds a = true ∧ t.stream a = s.stream a ∧ t.out = s.out
end

