-- ==== Sys2Proof/Laws/Commands.lean ====
section
/-! SUPPORT. What the frame builder can answer, said once. -/

namespace Sys2Proof.Machine

theorem inDomain_iff (f : Field) (v : Nat) : inDomain f v = true ↔ fieldLo f ≤ v ∧ v ≤ fieldHi f := by
  rw [inDomain, Bool.and_eq_true, decide_eq_true_eq, decide_eq_true_eq]

/-- The one inversion of the builder: it gives bytes exactly for a kind with a layout whose fields are in their domains, and
they are the layout's. -/
theorem buildFrame_ok_iff {cmd : Command} {bs : List Byte} :
    buildFrame cmd = .ok bs ↔
      refusedKindOf cmd = none ∧ firstOutside (commandFields cmd) = none ∧ bs = commandBytes cmd := by
  unfold buildFrame
  cases refusedKindOf cmd with
  | some k => simp
  | none =>
    cases firstOutside (commandFields cmd) with
    | some fv => simp
    | none => simp [eq_comm]

/-- No field is reported exactly when every field is in its domain. -/
theorem firstOutside_eq_none_iff (fs : List (Field × Nat)) :
    firstOutside fs = none ↔ ∀ fv ∈ fs, inDomain fv.1 fv.2 = true := by
  simp [firstOutside, List.find?_eq_none]

end Sys2Proof.Machine
end

