-- ==== Sys2Proof/Laws/History.lean ====
section
/-! SUPPORT. The small lemmas of the history's reader, of the delivered messages and of the framing function. -/

namespace Sys2Proof.Machine

theorem Replay.readAll_append (c : Config) (r : Replay) (es fs : List Event) :
    r.readAll c (es ++ fs) = (r.readAll c es).bind fun q => q.readAll c fs := by
  induction es generalizing r with
  | nil => rfl
  | cons e es ih =>
    simp only [List.cons_append, Replay.readAll]
    cases r.read c e with
    | none => rfl
    | some q => exact ih q

theorem Replay.readAll_cons_eq_some {c : Config} {r q : Replay} {e : Event} {es : List Event} :
    r.readAll c (e :: es) = some q ↔ ∃ p, r.read c e = some p ∧ p.readAll c es = some q := by
  simp only [Replay.readAll]
  cases r.read c e <;> simp

theorem delivered_append (es fs : List Event) : delivered (es ++ fs) = delivered es ++ delivered fs := by
  simp [delivered]

theorem overflows_append (es fs : List Event) : overflows (es ++ fs) = overflows es + overflows fs := by
  simp [overflows]

/-- In OVERFLOWED the framing function discards every byte (40_framing.md R105). -/
theorem frameBytes_overflowed (c : Config) (buf bs : List Byte) :
    frameBytes c buf true bs = { buf := buf, ovf := true, msgs := [], overflowed := false } := by
  induction bs with
  | nil => rfl
  | cons b bs ih => simp [frameBytes, ih]

/-- A word placed at a stream's position is the stream's next word. -/
theorem Stream.next_place (st : Stream) (w : Word) : (st.place w).next = some w := by
  have hl : (st.words.take st.pos ++ List.replicate (st.pos - st.words.length) 0x0000#16).length = st.pos := by
    simp; omega
  simp only [Stream.next, Stream.place]
  rw [List.getElem?_append_right (by omega), hl]
  simp

end Sys2Proof.Machine
end

