-- ==== Sys2Proof/Laws/PerInstr.lean ====
section
/-! SUPPORT. The per-instruction family OneRow: the word of every operation is covered by exactly one row of the opcode map, the
row with its mnemonic (30_encoding.md R72, "At most one row matches any word"). -/

namespace Sys2Proof.Laws.OneRow

/-- The rows of the opcode map that cover the word of `i` are one, and it has the mnemonic of `i`. -/
def Statement (i : Instr) : Prop := (opcodeTable.filter fun r => r.covers (encode i)).map (·.mnemonic) = [i.mnemonic]

theorem nop : Statement .nop := by unfold Statement; decide

theorem feed (b : Byte) : Statement (.feed b) := by
  unfold Statement
  revert b
  decide

theorem take : Statement .take := by unfold Statement; decide

theorem reset : Statement .reset := by unfold Statement; decide

theorem status : Statement .status := by unfold Statement; decide

end Sys2Proof.Laws.OneRow
end

