-- ==== Sys2Proof/Laws/Storage.lean ====
section
/-! SUPPORT. The operations over the block's two storage elements, the pending-byte buffer and the output slot (20_memory.md R50,
R51), keep their form (10_state.md R23, R27); both have it at reset. The block has no addressed memory. -/

namespace Sys2Proof.Machine

theorem State.bufAppend_bufWf {c : Config} {s : State} {b : Byte} (h : BufWf c s) (hb : b ≠ c.term)
    (hl : s.buf.length < c.cap) : BufWf c (s.bufAppend b) := by
  refine ⟨by simp; omega, fun x hx => ?_⟩
  rcases List.mem_append.1 hx with hx | hx
  · exact h.2 x hx
  · rw [List.mem_singleton.1 hx]; exact hb

theorem State.bufDrain_bufWf (c : Config) (s : State) : BufWf c s.bufDrain := by simp [BufWf]

/-- The message that FEED of the terminator forms from a well-formed buffer is complete (10_state.md R27). -/
theorem messageWf_of_bufWf {c : Config} {s : State} (h : BufWf c s) : MessageWf c (s.buf ++ [c.term]) := by
  refine ⟨by simp, fun b hb => h.2 b (by simpa using hb), by simp, ?_⟩
  have := h.1
  simp [Config.msgMax, this]

theorem State.emit_slotWf {c : Config} {s : State} {m : Message} (h : MessageWf c m) : SlotWf c (s.emit m) := by
  intro x hx
  cases hx
  exact h

theorem State.clearSlot_slotWf (c : Config) (s : State) : SlotWf c s.clearSlot := by simp [SlotWf]

theorem State.reset_storageWf (c : Config) : BufWf c State.reset ∧ SlotWf c State.reset := by
  simp [BufWf, SlotWf, State.reset]

end Sys2Proof.Machine
end

