-- ==== Sys2Proof/Tests/Slice0.lean ====
section
/-! SUPPORT. The model's own tests: the checks refuse what they should, the words of the spec's tables decode, a few vectors of
95_test_vectors.md, and for every statement with hypotheses a named witness that meets them. -/

namespace Sys2Proof.Tests

open Sys2Proof.Machine

/-- The next state of an outcome, if it is one. -/
def nextOf (o : Host.Outcome State Fault Refusal) : Option State :=
  match o with
  | .next t => some t
  | .fault _ => none
  | .refused _ => none

/-- The block with these fields, the rest as at reset. -/
def block (buf : List Byte) (ovf : Bool) (out : Option Message) : State :=
  { State.reset with buf := buf, ovf := ovf, out := out }

/-- The block with its history. -/
def blockWith (buf : List Byte) (ovf : Bool) (out : Option Message) (trace : List Event) : State :=
  { block buf ovf out with trace := trace }

/-- A buffer that is full on this hardware. -/
def full : List Byte := List.replicate 100 0x01#8

/-- The first message of the source's two-chunk scenario. -/
def inquiry : Message := [0x81#8, 0x09#8, 0x04#8, 0x00#8, 0xFF#8]

/-- An instance with `CAP` = 3 (95_test_vectors.md). -/
def cap3 : Config := { cap := 3, term := 0xFF#8 }

/-! ### WellFormed: the checks refuse ill-formed terms -/

theorem test_wellFormed_refuses_capacity : ({ cap := 0, term := 0xFF#8 } : Config).legal = false ∧
    ({ cap := 255, term := 0xFF#8 } : Config).legal = false ∧ ({ cap := 254, term := 0xFF#8 } : Config).legal = true ∧
    Config.hw.legal = true := by decide

theorem test_wellFormed_refuses_byte : (Line.feed 256).wellFormed = false ∧ (Line.feed 255).wellFormed = true ∧
    (Line.feeds [1, 300]).wellFormed = false ∧ byteInRange 256 = false := by decide

theorem test_wellFormed_operations : Instr.nop.wellFormed = true ∧ (Instr.feed 0xFF#8).wellFormed = true ∧
    Instr.take.wellFormed = true ∧ Instr.reset.wellFormed = true ∧ Instr.status.wellFormed = true := by decide

/-! ### Decode: words written out from 30_encoding.md R72 and 95_test_vectors.md 2.1 -/

theorem test_decode_nop : decode 0b0000000000000000#16 = .op .nop := by decide

theorem test_decode_feed : decode 0b0001000010101011#16 = .op (.feed 0xAB#8) ∧ decode 0x1000#16 = .op (.feed 0x00#8) ∧
    decode 0x10FF#16 = .op (.feed 0xFF#8) := by decide

theorem test_decode_take : decode 0b0010000000000000#16 = .op .take := by decide

theorem test_decode_reset : decode 0b0011000000000000#16 = .op .reset := by decide

theorem test_decode_status : decode 0b0100000000000000#16 = .op .status := by decide

theorem test_decode_reserved : decode 0x0001#16 = .reserved 0x0001#16 ∧ decode 0x1100#16 = .reserved 0x1100#16 ∧
    decode 0x1FFF#16 = .reserved 0x1FFF#16 ∧ decode 0x2001#16 = .reserved 0x2001#16 ∧
    decode 0x3080#16 = .reserved 0x3080#16 ∧ decode 0x4100#16 = .reserved 0x4100#16 ∧
    decode 0x5000#16 = .reserved 0x5000#16 ∧ decode 0xFFFF#16 = .reserved 0xFFFF#16 := by decide

theorem test_decodeTableWord : decodeTableWord 16 0x1081 = some (.feed 0x81#8) ∧ decodeTableWord 16 0x1100 = none := by decide

/-! ### The operations, on vectors of 95_test_vectors.md -/

/-- F5: the 101st non-terminator byte overflows, STATUS 0x640A. -/
theorem test_feed_overflows : (nextOf (exec (.feed 0x01#8) (block full false none))).map
    (fun t => (t.buf = full, statusWord t, t.trace)) = some (True, 0x640A#16, [.input 0x01#8, .overflow]) := by
  simp only [exec, execFeed, nextOf, Option.map_some, Option.some.injEq, Prod.mk.injEq, eq_iff_iff, iff_true]
  decide

/-- F2: the pending bytes and the terminator become the message, STATUS 0x0004. -/
theorem test_feed_terminates : (nextOf (exec (.feed 0xFF#8) (block [0x81#8, 0x09#8, 0x04#8, 0x00#8] false none))).map
    (fun t => (t.buf, t.out, statusWord t)) = some ([], some inquiry, 0x0004#16) := by decide

/-- T1: TAKE gives back (5, m). -/
theorem test_take_delivers : (nextOf (exec .take (block [] false (some inquiry)))).map
    (fun t => (t.out, t.result, t.trace)) = some (none, .message 5#8 inquiry, [.msg inquiry]) := by decide

/-- T2: TAKE on an empty slot holds. -/
theorem test_take_holds : (nextOf (exec .take State.reset)) = some State.reset := by decide

/-- C3: RESET discards the untaken message, without a Msg event. -/
theorem test_reset_discards : (nextOf (exec .reset (block [0x81#8] false (some [0x81#8, 0xFF#8])))).map
    (fun t => (t.buf, t.out, t.trace)) = some ([], none, [.reset]) := by decide

/-- C5: STATUS gives back 0x0105. -/
theorem test_status_word : (nextOf (exec .status (block [0x81#8] false (some inquiry)))).map
    (fun t => (t.result, t.trace)) = some (.status 0x0105#16, [.status 0x0105#16]) := by decide

/-- C8: NOP changes nothing. -/
theorem test_nop_idles : nextOf (exec .nop (block [0x81#8] false none)) = some (block [0x81#8] false none) := by decide

/-- P4: the second word of FEED 0xFF, FEED 0x81 holds for ever. -/
theorem test_stuck_program :
    ({ block [] false (some [0xFF#8]) with host := { words := [0x10FF#16, 0x1081#16], pos := 1 } } : State).stuckTest .host = true := by
  decide

/-- F12, F13, F14: an instance with CAP = 3. -/
theorem test_cap3_framing :
    frameBytes cap3 [] false [1#8, 2#8, 3#8, 0xFF#8] = ⟨[], false, [[1#8, 2#8, 3#8, 0xFF#8]], false⟩ ∧
    frameBytes cap3 [] false [1#8, 2#8, 3#8, 4#8, 0xFF#8] = ⟨[1#8, 2#8, 3#8], true, [], true⟩ ∧
    frameBytes cap3 [] false [0xAA#8, 0xFF#8, 1#8, 2#8, 3#8, 4#8] = ⟨[1#8, 2#8, 3#8], true, [[0xAA#8, 0xFF#8]], true⟩ := by
  decide

/-- F13, C7: STATUS in OVERFLOWED of the instance with CAP = 3 is 0x030A. -/
theorem test_cap3_status :
    statusWord (eagerFeed cap3 State.reset [1#8, 2#8, 3#8, 4#8, 0xFF#8]) = 0x030A#16 := by decide

/-- W1, W2, E6, E8, E13: command frames. -/
theorem test_frames :
    buildFrame (.up 1 0x18) = .ok [0x81#8, 0x01#8, 0x06#8, 0x01#8, 0x18#8, 0x00#8, 0x03#8, 0x01#8, 0xFF#8] ∧
    buildFrame (.zoomIn 1 7) = .ok [0x81#8, 0x01#8, 0x04#8, 0x07#8, 0x27#8, 0xFF#8] ∧
    buildFrame (.zoomOut 1 7) = .ok [0x81#8, 0x01#8, 0x04#8, 0x07#8, 0x37#8, 0xFF#8] ∧
    buildFrame (.recallPreset 1 15) = .ok [0x81#8, 0x01#8, 0x04#8, 0x3F#8, 0x02#8, 0x0F#8, 0xFF#8] ∧
    buildFrame (.stopPanTilt 15) = .ok [0x8F#8, 0x01#8, 0x06#8, 0x01#8, 0x00#8, 0x00#8, 0x03#8, 0x03#8, 0xFF#8] := by decide

/-- R154's table: the length of a kind whose bytes are not in the source, and of two whose bytes are. -/
theorem test_frame_lengths : commandLength (.noLayout .downRight [1, 5, 5]) = some 9 ∧
    commandLength (.storePreset 1 2) = some 7 ∧ commandLength (.powerInquiry 1) = some 5 ∧
    commandLength (.noLayout (.unlisted "Focus") []) = none := by decide

/-- E1, E4, E11, E12: range errors and a refused kind. -/
theorem test_frame_errors :
    buildFrame (.powerOn 0) = .error (.rangeError .address 0 1 15) ∧
    buildFrame (.up 1 25) = .error (.rangeError .panSpeed 25 1 24) ∧
    buildFrame (.up 0 25) = .error (.rangeError .address 0 1 15) ∧
    buildFrame (.noLayout .down [1, 5]) = .error (.layoutNotInSource .down) := by decide

/-- P3's source text: its 22 words. -/
theorem test_assemble_text :
    assemble "FRAME Up(1, 0x18)\nTAKE ; the first\nframe ZoomIn(1, 7)\nTAKE\nFEED 0xFF\nSTATUS\nTAKE\nFEED 136\nSTATUS" =
      .ok [0x1081#16, 0x1001#16, 0x1006#16, 0x1001#16, 0x1018#16, 0x1000#16, 0x1003#16, 0x1001#16, 0x10FF#16, 0x2000#16,
        0x1081#16, 0x1001#16, 0x1004#16, 0x1007#16, 0x1027#16, 0x10FF#16, 0x2000#16, 0x10FF#16, 0x4000#16, 0x2000#16,
        0x1088#16, 0x4000#16] := by decide

/-- E12 and R76 in text: refused lines. -/
theorem test_assemble_refuses :
    assemble "FRAME Down(1, 5)" = .error (.frame (.layoutNotInSource .down)) ∧
    assemble "FRAME PowerOn(16)" = .error (.frame (.rangeError .address 16 1 15)) ∧
    assemble "FEED 256" = .error (.byteOutOfRange 256) ∧ assemble "JUMP 1" = .error .badLine ∧
    assemble "FEEDS" = .ok [] ∧ assemble "FEEDS 0x81, 9" = .ok [0x1081#16, 0x1009#16] := by decide

/-- A word placed at reset runs in the very next step. -/
theorem test_withFetchWord : (nextOf (step (State.reset.withFetchWord 16 0x1081))).map
    (fun t => (t.buf, t.host.pos)) = some ([0x81#8], 1) := by decide

/-! ### Witnesses: what meets the hypotheses of each statement -/

/-- The host with these words, at this position. -/
def hosted (s : State) (words : List Word) (pos : Nat) : State := { s with host := { words := words, pos := pos } }

theorem inv_full : BlockInv Config.hw (block full false none) := by decide

theorem inv_overflowed : BlockInv Config.hw (block full true none) := by decide

theorem inv_waiting : BlockInv Config.hw (block [] false (some inquiry)) := by decide

theorem inv_longest : BlockInv Config.hw (block [] false (some (full ++ [0xFF#8]))) := by decide

theorem witness_wellFormed_operations : Instr.nop.wellFormed = true ∧ (Instr.feed 0x00#8).wellFormed = true ∧
    (Instr.feed 0xFF#8).wellFormed = true := by decide

/-- EncodeOfDecodeIsTheWord, DecodeFollowsOpcodeRows. -/
theorem witness_decoded_words : decode 0x0000#16 = .op .nop ∧ decode 0x10FF#16 = .op (.feed 0xFF#8) ∧
    decode 0x2000#16 = .op .take ∧ decode 0x3000#16 = .op .reset ∧ decode 0x4000#16 = .op .status := by decide

theorem witness_StepRunsTheDecodedOperation : (hosted State.reset [0x1081#16] 0).nextWord = some 0x1081#16 ∧
    decode 0x1081#16 = .op (.feed 0x81#8) ∧ (Instr.feed 0x81#8).wellFormed = true := by decide

theorem witness_ReservedWordIsRefused : (hosted State.reset [0x1100#16] 0).nextWord = some 0x1100#16 ∧
    decode 0x1100#16 = .reserved 0x1100#16 := by decide

theorem witness_TurnWithoutWordIsIdle : State.reset.nextWord = none := by decide

/-- PositionAdvancesExactlyOnCompletion: an enabled word, a held word, no word. -/
theorem witness_PositionAdvancesExactlyOnCompletion :
    ((nextOf (step (hosted State.reset [0x1081#16] 0))).isSome = true ∧
      (hosted State.reset [0x1081#16] 0).nextOp (hosted State.reset [0x1081#16] 0).mover = some (.feed 0x81#8) ∧
      enabled (.feed 0x81#8) (hosted State.reset [0x1081#16] 0) = true) ∧
    ((nextOf (step (hosted State.reset [0x2000#16] 0))).isSome = true ∧
      (hosted State.reset [0x2000#16] 0).nextOp (hosted State.reset [0x2000#16] 0).mover = some .take ∧
      enabled .take (hosted State.reset [0x2000#16] 0) = false) ∧
    ((nextOf (step State.reset)).isSome = true ∧ State.reset.nextOp State.reset.mover = none) := by decide

/-- FeedStoresTheByte at both ends: an empty buffer, and one byte short of full. -/
theorem witness_FeedStoresTheByte :
    (State.reset.out = none ∧ State.reset.ovf = false ∧ 0x00#8 ≠ Config.hw.term ∧ State.reset.buf.length < Config.hw.cap) ∧
    ((block (List.replicate 99 0x01#8) false none).out = none ∧ (block (List.replicate 99 0x01#8) false none).ovf = false ∧
      0xFE#8 ≠ Config.hw.term ∧ (block (List.replicate 99 0x01#8) false none).buf.length < Config.hw.cap) := by decide

theorem witness_FeedTerminatorEmitsTheMessage : State.reset.out = none ∧ State.reset.ovf = false ∧
    (block full false none).out = none ∧ (block full false none).ovf = false := by decide

theorem witness_FeedOverflowsWhenFull : (block full false none).out = none ∧ (block full false none).ovf = false ∧
    0x01#8 ≠ Config.hw.term ∧ (block full false none).buf.length = Config.hw.cap := by decide

theorem witness_FeedDiscardsInOverflow : (block full true none).out = none ∧ (block full true none).ovf = true ∧
    (block full true none).buf.length = 100 := by decide

/-- FeedHoldsBehindAFullSlot: a held FEED as the host's next word; a TAKE and a RESET that answer; OVERFLOWED. -/
theorem witness_FeedHoldsBehindAFullSlot :
    ((hosted (block [] false (some [0xFF#8])) [0x1081#16] 0).out ≠ none ∧
      (hosted (block [] false (some [0xFF#8])) [0x1081#16] 0).nextOp .host = some (.feed 0x81#8)) ∧
    (nextOf (exec .take (block [] false (some [0xFF#8])))).isSome = true ∧
    (nextOf (exec .reset (block [] false (some [0xFF#8])))).isSome = true ∧
    BlockInv Config.hw (block full true none) ∧ (block full true none).ovf = true :=
  ⟨by decide, by decide, by decide, inv_overflowed, rfl⟩

/-- TakeDeliversTheMessage: a message of the source's scenario and the longest message. -/
theorem witness_TakeDeliversTheMessage :
    ((block [] false (some inquiry)).out = some inquiry ∧ BlockInv Config.hw (block [] false (some inquiry))) ∧
    ((block [] false (some (full ++ [0xFF#8]))).out = some (full ++ [0xFF#8]) ∧
      BlockInv Config.hw (block [] false (some (full ++ [0xFF#8])))) :=
  ⟨⟨rfl, inv_waiting⟩, rfl, inv_longest⟩

theorem witness_TakeHoldsOnAnEmptySlot :
    State.reset.out = none ∧ (hosted State.reset [0x2000#16] 0).nextOp .host = some .take ∧ State.reset.ovf = false ∧
    (nextOf (exec (.feed 0xFF#8) State.reset)).map (enabled .take) = some true := by decide

theorem witness_ResetClearsTheBlock : (block full true none).ovf = true ∧
    (nextOf (exec .reset (block full true none))).map (·.ovf) = some false := by decide

theorem witness_StatusReturnsTheWord : cap3.legal = true ∧ BlockInv cap3 (block [1#8, 2#8, 3#8] true none) ∧
    (block [1#8, 2#8, 3#8] true none).ovf = true := by decide

/-- Each operation answers a next state at reset (the statements over every operation), the append and both drains occur. -/
theorem witness_operations_answer :
    (nextOf (exec .nop State.reset)).isSome = true ∧ (nextOf (exec (.feed 0x81#8) State.reset)).map (·.buf) = some [0x81#8] ∧
    (nextOf (exec .take State.reset)).isSome = true ∧ (nextOf (exec .reset State.reset)).isSome = true ∧
    (nextOf (exec .status State.reset)).isSome = true ∧ State.reset.buf.length ≤ Config.hw.cap := by decide

/-- OverflowFlagRules: the flag rises, falls, and stays while a FEED is discarded; a step with a RESET word clears it. -/
theorem witness_OverflowFlagRules :
    ((block full false none).ovf = false ∧ (nextOf (exec (.feed 0x01#8) (block full false none))).map (·.ovf) = some true) ∧
    ((block full true none).ovf = true ∧ (nextOf (exec (.feed 0xFF#8) (block full true none))).map (·.ovf) = some true) ∧
    (nextOf (step (hosted (block full true none) [0x3000#16] 0))).map (·.ovf) = some false := by decide

/-- OverflowIsTheOnlyException: the invariant at the overflowing FEED. -/
theorem witness_OverflowIsTheOnlyException : BlockInv Config.hw (block full false none) ∧
    causeCode Config.hw (.feed 0x01#8) (block full false none) = 1 ∧
    (nextOf (exec (.feed 0x01#8) (block full false none))).isSome = true :=
  ⟨inv_full, by decide, by decide⟩

/-- Four accepted bytes, the last of which overflows the instance with CAP = 3. -/
def fourBytes : List Event := [.input 1#8, .input 2#8, .input 3#8, .input 4#8]

/-- A delivery after a RESET that discarded a message. -/
def afterReset : List Event := [.reset, .input 0xFF#8, .reset, .input 5#8, .input 0xFF#8]

/-- OverflowIsTheOnlyException: a history (CAP = 3) with two Overflow events. -/
theorem witness_two_overflows : TraceInv cap3 (blockWith [1#8, 2#8, 3#8] true none
    (fourBytes ++ Event.overflow :: ((Event.reset :: fourBytes) ++ Event.overflow :: []))) := by decide

/-- LogicalStateTransitions: EMPTY, and ACCUMULATING with one byte. -/
theorem witness_LogicalStateTransitions_short :
    (BlockInv Config.hw State.reset ∧ State.reset.logical = .empty ∧ State.reset.out = none) ∧
    BlockInv Config.hw (block [0x81#8] false none) ∧ (block [0x81#8] false none).logical = .accumulating :=
  ⟨⟨by decide, by decide, by decide⟩, by decide, by decide⟩

/-- LogicalStateTransitions: ACCUMULATING with a full buffer, OVERFLOWED, and a FEED held behind a full slot. -/
theorem witness_LogicalStateTransitions_full :
    (BlockInv Config.hw (block full false none) ∧ (block full false none).logical = .accumulating ∧
      (block full false none).buf.length = Config.hw.cap) ∧
    (BlockInv Config.hw (block full true none) ∧ (block full true none).logical = .overflowed) ∧
    BlockInv Config.hw (block [] false (some inquiry)) ∧ (block [] false (some inquiry)).out ≠ none :=
  ⟨⟨inv_full, by decide, by decide⟩, ⟨inv_overflowed, by decide⟩, inv_waiting, by decide⟩

theorem witness_CountNeverWraps : Config.hw.legal = true ∧ BlockInv Config.hw (block full false none) ∧
    BlockInv Config.hw (block full true none) ∧ 0x01#8 ≠ Config.hw.term ∧ (block full false none).out = none :=
  ⟨by decide, inv_full, inv_overflowed, by decide, rfl⟩

/-- StatusWordLayout, NotificationLevels: the invariant at the longest buffer and with a message waiting. -/
theorem witness_StatusWordLayout : BlockInv Config.hw (block full false none) ∧
    BlockInv Config.hw (block [] false (some inquiry)) := ⟨inv_full, inv_waiting⟩

/-- NotificationLevels: each level rises and falls. -/
theorem witness_NotificationLevels :
    (outValid State.reset = false ∧ (nextOf (exec (.feed 0xFF#8) State.reset)).map outValid = some true) ∧
    (outValid (block [] false (some inquiry)) = true ∧
      (nextOf (exec .take (block [] false (some inquiry)))).map outValid = some false) ∧
    (ovfPort (block full false none) = false ∧
      (nextOf (exec (.feed 0x01#8) (block full false none))).map ovfPort = some true) ∧
    (ovfPort (block full true none) = true ∧ (nextOf (exec .reset (block full true none))).map ovfPort = some false) := by decide

theorem witness_SideEffectsOfAccess : State.reset.out = none ∧ (block [] false (some inquiry)).out ≠ none ∧
    (nextOf (exec .take (block [] false (some inquiry)))).isSome = true ∧
    ((nextOf (exec .reset State.reset)).bind fun t => nextOf (exec .reset t)).isSome = true := by decide

/-- StepKeepsBlockInvariant, StepKeepsPositions, StepKeepsHistoryInvariant: a state with a word to perform. -/
theorem witness_step_keeps : BlockInv Config.hw (hosted State.reset [0x1081#16] 0) ∧
    PositionsWf (hosted State.reset [0x1081#16] 0) ∧ TraceInv Config.hw (hosted State.reset [0x1081#16] 0) ∧
    (nextOf (step (hosted State.reset [0x1081#16] 0))).isSome = true :=
  ⟨by decide, by decide, by decide, by decide⟩

/-- ReachableStatesMeetTheInvariant: a run of three steps that leaves a message in the slot. -/
theorem witness_ReachableStatesMeetTheInvariant :
    (nextOf (core.run 3 (State.loaded [.source, .source, .source] [] [0x1081#16, 0x1009#16, 0x10FF#16] [] []))).map (·.out) =
      some (some [0x81#8, 0x09#8, 0xFF#8]) := by decide

theorem witness_OperationsKeepTheInvariantForEveryCapacity : BlockInv cap3 (block [1#8, 2#8, 3#8] false none) ∧
    BlockInv cap3 (block [1#8] false (some [2#8, 0xFF#8])) := ⟨by decide, by decide⟩

/-- NotificationContract: a history with a delivered, a discarded and a waiting message, and an Overflow before a Reset and a
later Msg (CAP = 3). -/
theorem witness_NotificationContract : TraceInv cap3 (blockWith [] false (some [7#8, 0xFF#8])
    (fourBytes ++ Event.overflow :: (afterReset ++ Event.msg [5#8, 0xFF#8] :: [.input 7#8, .input 0xFF#8]))) := by decide

/-- FramingFunctionIsChunkInvariant, EagerSinkRunsTheFramingFunction, and its terminate, store and overflow clauses. -/
theorem witness_framing_function : State.reset.out = none ∧ (block [1#8, 2#8, 3#8] true none).out = none ∧
    0xFF#8 = cap3.term ∧ frameBytes cap3 [] false [1#8] = ⟨[1#8], false, [], false⟩ ∧
    1#8 ≠ cap3.term ∧ ([1#8, 2#8] : List Byte).length < cap3.cap ∧ cap3.cap ≤ ([1#8, 2#8, 3#8] : List Byte).length ∧
    frameBytes cap3 [1#8, 2#8, 3#8] true [1#8] = ⟨[1#8, 2#8, 3#8], true, [], false⟩ := by decide

theorem witness_FramingLosesNoByte : (frameBytes cap3 [1#8] false [2#8, 3#8, 0xFF#8, 4#8]).overflowed = false ∧
    ([1#8] : List Byte).length ≤ cap3.cap ∧ (∀ b ∈ ([1#8] : List Byte), b ≠ cap3.term) := by decide

theorem witness_FramingAgreesWithTheSourceScan : (∀ b ∈ ([1#8] : List Byte), b ≠ cap3.term) ∧
    runsWithin cap3 ([1#8] : List Byte).length [2#8, 3#8, 0xFF#8, 4#8, 5#8, 6#8] = true ∧
    runsWithin cap3 ([1#8] : List Byte).length [2#8, 3#8, 4#8, 0xFF#8] = false := by decide

theorem witness_ResetInMidMessageEmitsTheTail : (nextOf (exec .reset (block [0x81#8] false none))).isSome = true ∧
    (∀ b ∈ full, b ≠ Config.hw.term) ∧ full.length ≤ Config.hw.cap := by decide

/-- FrameLayouts and the statements about frames built: bytes at the bounds. -/
theorem witness_FrameLayouts : (∃ bs, buildFrame (.up 15 24) = .ok bs) ∧ (∃ bs, buildFrame (.zoomOut 1 0) = .ok bs) ∧
    (∃ bs, buildFrame (.storePreset 15 15) = .ok bs) ∧ ∃ bs, buildFrame (.powerInquiry 1) = .ok bs :=
  ⟨⟨_, rfl⟩, ⟨_, rfl⟩, ⟨_, rfl⟩, ⟨_, rfl⟩⟩

theorem witness_RangeErrorNamesTheFirstFieldOutside : refusedKindOf (.zoomIn 1 8) = none ∧
    buildFrame (.zoomIn 1 8) = .error (.rangeError .zoomSpeed 8 0 7) := by decide

theorem witness_CommandFramesRoundTrip : 8 ≤ Config.hw.cap ∧ Config.hw.term = 0xFF#8 ∧
    [Command.powerInquiry 1, Command.zoomIn 1 7].map buildFrame =
      [inquiry, [0x81#8, 0x01#8, 0x04#8, 0x07#8, 0x27#8, 0xFF#8]].map .ok ∧
    State.reset.logical = .empty ∧ State.reset.out = none := by decide

theorem witness_FeedsExpandsToFeedWords :
    assembleLine (.feeds (([0x81#8] : List Byte).map BitVec.toNat)) = .ok [0x1081#16] ∧
    assembleLine (.feeds (([0xFF#8] : List Byte).map BitVec.toNat)) = .ok [0x10FF#16] ∧
    buildFrame (.powerInquiry 1) = .ok inquiry ∧ buildFrame (.powerOn 0) = .error (.rangeError .address 0 1 15) := by decide

/-- PortEdgePerformsOneEnabledOperation: each clause has ports and a state. -/
theorem witness_PortEdge : (block [] false (some inquiry)).out ≠ none ∧ State.reset.out = none ∧
    portOp ⟨true, true, 0x81#8, true⟩ (block [] false (some inquiry)) = .reset ∧
    portOp ⟨false, true, 0x81#8, true⟩ (block [] false (some inquiry)) = .take ∧
    portOp ⟨false, true, 0x81#8, true⟩ State.reset = .feed 0x81#8 ∧
    portOp ⟨false, true, 0x81#8, false⟩ (block [] false (some inquiry)) = .nop ∧
    portOp ⟨false, false, 0x81#8, true⟩ State.reset = .nop := by decide

/-- C5 at the ports: sampling status is recorded with 0x0105, before the TAKE of the same cycle. -/
theorem test_sampled_status : (nextOf (clockCycle true ⟨false, true, 0x81#8, true⟩ (block [0x81#8] false (some inquiry)))).map
    (fun t => (t.buf, t.out, t.trace)) = some ([0x81#8], none, [.status 0x0105#16, .msg inquiry]) := by decide

/-- SampledStatusIsAStatusOperation: its two invariants hold with a byte pending, and with a message waiting. -/
theorem witness_SampledStatus : BlockInv Config.hw (blockWith [0x81#8] false none [.input 0x81#8]) ∧
    TraceInv Config.hw (blockWith [0x81#8] false none [.input 0x81#8]) ∧
    BlockInv Config.hw (blockWith [] false (some [0xFF#8]) [.input 0xFF#8]) ∧
    TraceInv Config.hw (blockWith [] false (some [0xFF#8]) [.input 0xFF#8]) := by decide

/-- OutDataCarriesTheMessage: the shortest and the longest message of this hardware. -/
theorem witness_OutDataCarriesTheMessage : Config.hw.legal = true ∧ (block [] false (some [0xFF#8])).out = some [0xFF#8] ∧
    [0xFF#8].length ≤ Config.hw.msgMax ∧ (full ++ [0xFF#8]).length ≤ Config.hw.msgMax := by decide

theorem witness_InstancesShareNothing :
    ∃ sys', stepInstance 1 [State.reset, hosted State.reset [0x1081#16] 0] = .next sys' := ⟨_, rfl⟩

/-- HeldFeedCompletesAfterTheTake: vector T4 with the agents' turns. -/
def heldFeed : State :=
  { block [] false (some [0xAA#8, 0xFF#8]) with
    sched := [.source, .sink, .source]
    source := { words := [0x1001#16], pos := 0 }
    sink := { words := [0x2000#16], pos := 0 } }

theorem witness_HeldFeedCompletesAfterTheTake : heldFeed.out = some [0xAA#8, 0xFF#8] ∧
    heldFeed.sched = .source :: .sink :: .source :: [] ∧ heldFeed.nextOp .source = some (.feed 0x01#8) ∧
    heldFeed.nextOp .sink = some .take := by decide

/-- StuckTestFindsStuckRuns: a held FEED (P4), and a TAKE with no terminator to come. -/
theorem witness_StuckTestFindsStuckRuns :
    (hosted (block [] false (some [0xFF#8])) [0x1081#16] 0).stuckTest .host = true ∧
    (hosted State.reset [0x2000#16] 0).stuckTest .host = true ∧ heldFeed.stuckTest .source = false := by decide

/-- StepKeepsStuckIssuer: a step of the stuck issuer itself, and one of the source beside a stuck sink. -/
theorem witness_StepKeepsStuckIssuer :
    (hosted (block [] false (some [0xFF#8])) [0x1081#16] 0).stuckTest .host = true ∧
    (nextOf (step (hosted (block [] false (some [0xFF#8])) [0x1081#16] 0))).isSome = true ∧
    ({ heldFeed with out := none, source := { words := [0x1001#16], pos := 0 } } : State).stuckTest .sink = true ∧
    (nextOf (step { heldFeed with out := none, source := { words := [0x1001#16], pos := 0 } })).isSome = true := by decide

theorem witness_EndedRunKeepsTheBlock : (hosted (block [0x88#8] false none) [0x1088#16] 1).ended = true := by decide

end Sys2Proof.Tests
end

section
/-! The operations keep the block invariant, for every instance (00_scope.md R6, 10_state.md R23, R25, R27, R101): one rule per
update of the state, one lemma per operation from its cases, and O37 from these. -/

namespace Sys2Proof.Machine

/-! ### The updates of the state -/

theorem State.record_blockInv {c : Config} {s : State} (h : BlockInv c s) (e : Event) : BlockInv c (s.record e) := h

theorem State.answer_blockInv {c : Config} {s : State} (h : BlockInv c s) (r : Result) : BlockInv c (s.answer r) := h

theorem State.held_blockInv {c : Config} {s : State} (h : BlockInv c s) : BlockInv c s.held := State.answer_blockInv h .nothing

theorem State.bufAppend_blockInv {c : Config} {s : State} {b : Byte} (h : BlockInv c s) (ho : s.ovf = false)
    (hb : b ≠ c.term) (hl : s.buf.length < c.cap) : BlockInv c (s.bufAppend b) := by
  obtain ⟨hbuf, hslot, -⟩ := h
  exact ⟨State.bufAppend_bufWf hbuf hb hl, hslot, by simp [OverflowWf, ho]⟩

/-- The terminate case forms its message from the buffer before the drain (R103). -/
theorem State.bufDrain_emit_blockInv {c : Config} {s : State} (h : BlockInv c s) (ho : s.ovf = false) :
    BlockInv c (s.bufDrain.emit (s.buf ++ [c.term])) := by
  obtain ⟨hbuf, -, -⟩ := h
  exact ⟨State.bufDrain_bufWf c s, State.emit_slotWf (messageWf_of_bufWf hbuf), by simp [OverflowWf, ho]⟩

/-- Overflow is raised only at a full buffer with an empty slot, which is what OVERFLOWED then freezes (R104). -/
theorem State.raiseOverflow_blockInv {c : Config} {s : State} (h : BlockInv c s) (hout : s.out = none)
    (hl : c.cap ≤ s.buf.length) : BlockInv c s.raiseOverflow := by
  obtain ⟨hbuf, hslot, -⟩ := h
  have hfull : s.buf.length = c.cap := Nat.le_antisymm hbuf.1 hl
  exact ⟨hbuf, hslot, fun _ => ⟨hfull, hout⟩⟩

theorem State.clearSlot_blockInv {c : Config} {s : State} (h : BlockInv c s) : BlockInv c s.clearSlot := by
  obtain ⟨hbuf, -, hovf⟩ := h
  exact ⟨hbuf, State.clearSlot_slotWf c s, fun ho => ⟨(hovf ho).1, rfl⟩⟩

/-- The cleared block meets the invariant whatever the state was (R131). -/
theorem State.clearBlock_blockInv (c : Config) (s : State) : BlockInv c s.clearBlock :=
  ⟨State.bufDrain_bufWf c s, State.clearSlot_slotWf c s, by simp [OverflowWf]⟩

/-! ### The operations -/

theorem feedOp_blockInv {c : Config} {s : State} (h : BlockInv c s) (b : Byte) : BlockInv c (feedOp c b s) := by
  have hin : BlockInv c (s.record (.input b)) := State.record_blockInv h _
  obtain ⟨-, heq⟩ | ⟨-, -, heq⟩ | ⟨-, ho, -, heq⟩ | ⟨-, ho, hb, hl, heq⟩ | ⟨hout, -, -, hl, heq⟩ :=
    feedOp_cases c b s <;> rw [heq]
  · exact State.held_blockInv h
  · exact State.answer_blockInv hin _
  · exact State.answer_blockInv (State.bufDrain_emit_blockInv hin ho) _
  · exact State.answer_blockInv (State.bufAppend_blockInv hin ho hb hl) _
  · exact State.answer_blockInv (State.raiseOverflow_blockInv hin hout hl) _

theorem takeOp_blockInv {c : Config} {s : State} (h : BlockInv c s) : BlockInv c (takeOp s) := by
  obtain ⟨-, heq⟩ | ⟨m, -, heq⟩ := takeOp_cases s <;> rw [heq]
  · exact State.held_blockInv h
  · exact State.answer_blockInv (State.record_blockInv (State.clearSlot_blockInv h) _) _

theorem resetOp_blockInv (c : Config) (s : State) : BlockInv c (resetOp s) :=
  State.answer_blockInv (State.clearBlock_blockInv c s) _

theorem statusOp_blockInv {c : Config} {s : State} (h : BlockInv c s) : BlockInv c (statusOp s) :=
  State.answer_blockInv (State.record_blockInv h _) _

theorem nopOp_blockInv {c : Config} {s : State} (h : BlockInv c s) : BlockInv c (nopOp s) := State.answer_blockInv h _

/-- Settles O37: each operation's lemma, for an arbitrary configuration. -/
theorem operationsKeepTheInvariantForEveryCapacity : Obligations.OperationsKeepTheInvariantForEveryCapacity := by
  intro c s h
  exact ⟨feedOp_blockInv h, takeOp_blockInv h, resetOp_blockInv c s, statusOp_blockInv h, nopOp_blockInv h⟩

end Sys2Proof.Machine
end

section
/-! What a step does to the block, from what its operation does: a property of the block's four fields (10_state.md R22) that every
operation keeps is kept by every step and by every run. The block invariant follows: O35 and O36. -/

namespace Sys2Proof.Machine

/-- The two states agree in the spec's state `S` (10_state.md R22); the host around the block may differ. -/
def State.SameBlock (s t : State) : Prop := t.buf = s.buf ∧ t.ovf = s.ovf ∧ t.out = s.out ∧ t.trace = s.trace

theorem State.dropTurn_sameBlock (s : State) : s.SameBlock s.dropTurn := ⟨rfl, rfl, rfl, rfl⟩

theorem settle_sameBlock (a : Agent) (i : Instr) (s t : State) : t.SameBlock (settle a i s t) := by
  obtain ⟨hbuf, hovf, hout, htrace, -, -⟩ := settle_block a i s t
  exact ⟨hbuf, hovf, hout, htrace⟩

theorem State.loaded_sameBlock (sched : List Agent) (h so si co : List Word) :
    State.reset.SameBlock (State.loaded sched h so si co) := ⟨rfl, rfl, rfl, rfl⟩

/-- A step touches the block through exec only. -/
theorem step_keeps_of_exec_keeps {P : State → Prop} (hexec : ∀ i s t, P s → exec i s = .next t → P t)
    (hblock : ∀ s t, s.SameBlock t → P s → P t) {s t : State} (hs : P s) (h : step s = .next t) : P t := by
  have hd : P s.dropTurn := hblock _ _ s.dropTurn_sameBlock hs
  obtain ⟨-, rfl⟩ | ⟨w, i, u, -, -, hu, rfl⟩ := step_next h
  · exact hexec .nop _ _ hd (exec_next_iff.2 rfl)
  · exact hblock _ _ (settle_sameBlock s.mover i s u) (hexec i _ _ hd hu)

/-- The induction over a run. -/
theorem run_keeps_of_step_keeps {P : State → Prop} (hstep : ∀ s t, P s → step s = .next t → P t) (k : Nat) {s t : State}
    (hs : P s) (h : core.run k s = .next t) : P t := by
  induction k generalizing s with
  | zero => cases h; exact hs
  | succ k ih =>
    simp only [Host.Core.run] at h
    split at h
    next u hu => exact ih (hstep s u hs hu) h
    next => cases h
    next => cases h

/-! ### The block invariant -/

theorem blockInv_of_sameBlock {c : Config} {s t : State} (hst : s.SameBlock t) (h : BlockInv c s) : BlockInv c t := by
  obtain ⟨hbuf, hovf, hout, -⟩ := hst
  simpa only [BlockInv, BufWf, SlotWf, OverflowWf, hbuf, hovf, hout] using h

theorem exec_blockInv {i : Instr} {s t : State} (hs : BlockInv Config.hw s) (h : exec i s = .next t) :
    BlockInv Config.hw t := by
  have ht := exec_next_iff.1 h
  cases i <;> subst ht
  case nop => exact nopOp_blockInv hs
  case feed b => exact feedOp_blockInv hs b
  case take => exact takeOp_blockInv hs
  case reset => exact resetOp_blockInv _ s
  case status => exact statusOp_blockInv hs

theorem step_blockInv {s t : State} (hs : BlockInv Config.hw s) (h : step s = .next t) : BlockInv Config.hw t :=
  step_keeps_of_exec_keeps (fun _ _ _ => exec_blockInv) (fun _ _ => blockInv_of_sameBlock) hs h

theorem State.reset_blockInv (c : Config) : BlockInv c State.reset := by
  obtain ⟨hbuf, hslot⟩ := State.reset_storageWf c
  exact ⟨hbuf, hslot, by simp [OverflowWf, State.reset]⟩

theorem State.loaded_blockInv (c : Config) (sched : List Agent) (h so si co : List Word) :
    BlockInv c (State.loaded sched h so si co) :=
  blockInv_of_sameBlock (State.loaded_sameBlock sched h so si co) (State.reset_blockInv c)

/-- Settles O35: every operation keeps the invariant, which speaks of the block's fields only. -/
theorem stepKeepsBlockInvariant : Obligations.StepKeepsBlockInvariant := fun _ _ => step_blockInv

end Sys2Proof.Machine
end

section
/-! What reading one event of the history gives, case by case, and that every step keeps the history true (10_state.md R30,
40_framing.md R109): O39. -/

namespace Sys2Proof.Machine

/-! ### Reading one event where none is due -/

section
variable {c : Config} {r : Replay} {b : Byte}

theorem Replay.read_input_discard (hd : r.due = false) (hout : r.out = none) (ho : r.ovf = true) :
    r.read c (.input b) = some r := by
  simp [Replay.read, hd, hout, ho]

theorem Replay.read_input_terminate (hd : r.due = false) (hout : r.out = none) (ho : r.ovf = false) (hb : b = c.term) :
    r.read c (.input b) = some { r with buf := [], out := some (r.buf ++ [c.term]) } := by
  simp [Replay.read, hd, hout, ho, hb]

theorem Replay.read_input_store (hd : r.due = false) (hout : r.out = none) (ho : r.ovf = false) (hb : b ≠ c.term)
    (hl : r.buf.length < c.cap) : r.read c (.input b) = some { r with buf := r.buf ++ [b] } := by
  simp [Replay.read, hd, hout, ho, hb, hl]

theorem Replay.read_input_overflow (hd : r.due = false) (hout : r.out = none) (ho : r.ovf = false) (hb : b ≠ c.term)
    (hl : c.cap ≤ r.buf.length) : r.read c (.input b) = some { r with due := true } := by
  simp [Replay.read, hd, hout, ho, hb, Nat.not_lt.2 hl]

theorem Replay.read_overflow (hd : r.due = true) : r.read c .overflow = some { r with ovf := true, due := false } := by
  simp [Replay.read, hd]

theorem Replay.read_msg {m : Message} (hd : r.due = false) (hout : r.out = some m) :
    r.read c (.msg m) = some { r with out := none } := by
  simp [Replay.read, hd, hout]

theorem Replay.read_reset (hd : r.due = false) : r.read c .reset = some Replay.init := by
  simp [Replay.read, hd]

theorem Replay.read_status (hd : r.due = false) : r.read c (.status (statusBits r.buf r.ovf r.out)) = some r := by
  simp [Replay.read, hd]

theorem Replay.readAll_singleton (e : Event) : r.readAll c [e] = r.read c e := by
  simp only [Replay.readAll]
  cases r.read c e <;> rfl

end

/-! ### The history invariant -/

theorem traceInv_of_sameBlock {c : Config} {s t : State} (hst : s.SameBlock t) (h : TraceInv c s) : TraceInv c t := by
  obtain ⟨hbuf, hovf, hout, htrace⟩ := hst
  simpa only [TraceInv, Replay.of, hbuf, hovf, hout, htrace] using h

/-- A true history stays true under events that lead the reader from the old fields to the new ones. -/
theorem traceInv_of_append {c : Config} {s t : State} {es : List Event} (h : TraceInv c s) (ht : t.trace = s.trace ++ es)
    (hes : (Replay.of s).readAll c es = some (Replay.of t)) : TraceInv c t := by
  rw [TraceInv, ht, Replay.readAll_append, h]
  exact hes

/-- As `traceInv_of_append`, for one event. -/
theorem traceInv_of_snoc {c : Config} {s t : State} {e : Event} (h : TraceInv c s) (ht : t.trace = s.trace ++ [e])
    (he : (Replay.of s).read c e = some (Replay.of t)) : TraceInv c t :=
  traceInv_of_append h ht (by rw [Replay.readAll_singleton, he])

theorem State.answer_traceInv {c : Config} {s : State} (h : TraceInv c s) (r : Result) : TraceInv c (s.answer r) := h

theorem feedOp_traceInv {c : Config} {s : State} (h : TraceInv c s) (b : Byte) : TraceInv c (feedOp c b s) := by
  obtain ⟨-, heq⟩ | ⟨hout, ho, heq⟩ | ⟨hout, ho, hb, heq⟩ | ⟨hout, ho, hb, hl, heq⟩ | ⟨hout, ho, hb, hl, heq⟩ :=
    feedOp_cases c b s <;> rw [heq]
  · exact State.answer_traceInv h _
  · exact traceInv_of_snoc h rfl (Replay.read_input_discard rfl hout ho)
  · exact traceInv_of_snoc h rfl (Replay.read_input_terminate rfl hout ho hb)
  · exact traceInv_of_snoc h rfl (Replay.read_input_store rfl hout ho hb hl)
  · refine traceInv_of_append (es := [.input b, .overflow]) h (by simp) ?_
    exact Replay.readAll_cons_eq_some.2 ⟨_, Replay.read_input_overflow rfl hout ho hb hl,
      (Replay.readAll_singleton _).trans (Replay.read_overflow rfl)⟩

theorem takeOp_traceInv {c : Config} {s : State} (h : TraceInv c s) : TraceInv c (takeOp s) := by
  obtain ⟨-, heq⟩ | ⟨m, hout, heq⟩ := takeOp_cases s <;> rw [heq]
  · exact State.answer_traceInv h _
  · exact traceInv_of_snoc h rfl (Replay.read_msg rfl hout)

theorem resetOp_traceInv {c : Config} {s : State} (h : TraceInv c s) : TraceInv c (resetOp s) :=
  traceInv_of_snoc h rfl (Replay.read_reset rfl)

theorem statusOp_traceInv {c : Config} {s : State} (h : TraceInv c s) : TraceInv c (statusOp s) :=
  traceInv_of_snoc h rfl (Replay.read_status rfl)

theorem exec_traceInv {i : Instr} {s t : State} (hs : TraceInv Config.hw s) (h : exec i s = .next t) :
    TraceInv Config.hw t := by
  have ht := exec_next_iff.1 h
  cases i <;> subst ht
  case nop => exact State.answer_traceInv hs _
  case feed b => exact feedOp_traceInv hs b
  case take => exact takeOp_traceInv hs
  case reset => exact resetOp_traceInv hs
  case status => exact statusOp_traceInv hs

theorem State.reset_traceInv (c : Config) : TraceInv c State.reset := rfl

/-- Settles O39: each operation's events lead the reader from the fields before it to those after it. -/
theorem stepKeepsHistoryInvariant : Obligations.StepKeepsHistoryInvariant := fun _ _ =>
  step_keeps_of_exec_keeps (fun _ _ _ => exec_traceInv) (fun _ _ => traceInv_of_sameBlock)

end Sys2Proof.Machine
end

section
/-! The host around the block: which word a step issues, what a step does to the issuers' positions and to the schedule (10_state.md
R21): O6, O10, O22, O9 and O38. -/

namespace Sys2Proof.Machine

/-! ### The next word and the next operation -/

theorem Stream.pos_lt_of_next {st : Stream} {w : Word} (h : st.next = some w) : st.pos < st.words.length :=
  (List.getElem?_eq_some_iff.1 h).1

theorem State.nextOp_mover_of_nextWord {s : State} {w : Word} {i : Instr} (hw : s.nextWord = some w)
    (hd : decode w = .op i) : s.nextOp s.mover = some i := by
  rw [State.nextWord] at hw
  simp [State.nextOp, hw, hd]

theorem State.nextOp_eq_none_of_next {s : State} {a : Agent} (h : (s.stream a).next = none) : s.nextOp a = none := by
  simp [State.nextOp, h]

/-- An operation to come stands at a position within the issuer's words. -/
theorem State.pos_lt_of_nextOp {s : State} {a : Agent} {i : Instr} (h : s.nextOp a = some i) :
    (s.stream a).pos < (s.stream a).words.length := by
  cases hw : (s.stream a).next with
  | none => simp [State.nextOp_eq_none_of_next hw] at h
  | some w => exact Stream.pos_lt_of_next hw

/-- Settles O6: the two matches of step and issue, decided by the word. -/
theorem stepRunsTheDecodedOperation : Obligations.StepRunsTheDecodedOperation := by
  intro s w i hw hd _
  have hstep : step s = s.issue i (exec i s.dropTurn) := by simp [step, hw, hd]
  rw [hstep]
  rfl

/-! ### Placing a word -/

theorem wordOfTable_toNat (w : Word) : wordOfTable 16 w.toNat = w := by
  rw [wordOfTable, Nat.mod_eq_of_lt w.isLt, BitVec.ofNat_toNat, BitVec.setWidth_eq]

@[simp] theorem Stream.place_pos (st : Stream) (w : Word) : (st.place w).pos = st.pos := rfl

theorem State.mover_congr {s t : State} (h : t.sched = s.sched) : t.mover = s.mover := by
  rw [State.mover, State.mover, h]

theorem State.placeWord_nextWord (s : State) (w : Word) : (s.placeWord w).nextWord = some w := by
  have hm : (s.placeWord w).mover = s.mover := State.mover_congr (s.setStream_sched _ _)
  rw [State.nextWord, hm, State.placeWord, State.stream_setStream_same, Stream.next_place]

theorem State.placeWord_stream_pos (s : State) (w : Word) (a : Agent) :
    ((s.placeWord w).stream a).pos = (s.stream a).pos := by
  by_cases ha : a = s.mover
  · rw [ha, State.placeWord, State.stream_setStream_same, Stream.place_pos]
  · rw [State.placeWord, State.stream_setStream_other _ _ ha]

/-- Settles O10: the number is the word again, and placing it touches the mover's words only. -/
theorem placedWordIsTheWordFetched : Obligations.PlacedWordIsTheWordFetched := by
  intro s w
  have hplace : s.withFetchWord 16 w.toNat = s.placeWord w := by rw [State.withFetchWord, wordOfTable_toNat]
  rw [hplace]
  exact ⟨s.placeWord_nextWord w, s.setStream_buf _ _, s.setStream_ovf _ _, s.setStream_out _ _, s.setStream_trace _ _,
    s.setStream_sched _ _, s.placeWord_stream_pos w⟩

/-! ### The frame of an operation and of a step -/

theorem exec_host {i : Instr} {s t : State} (h : exec i s = .next t) :
    t.sched = s.sched ∧ t.host = s.host ∧ t.source = s.source ∧ t.sink = s.sink ∧ t.controller = s.controller := by
  have ht := exec_next_iff.1 h
  cases i <;> subst ht
  case feed b => exact feedOp_host _ b s
  case take => exact takeOp_host s
  all_goals exact ⟨rfl, rfl, rfl, rfl, rfl⟩

theorem exec_stream {i : Instr} {s t : State} (h : exec i s = .next t) (a : Agent) : t.stream a = s.stream a := by
  obtain ⟨-, hstreams⟩ := exec_host h
  exact State.stream_congr hstreams a

/-- Settles O22. -/
theorem operationsLeaveTheHostAlone : Obligations.OperationsLeaveTheHostAlone := fun _ _ _ => exec_host

theorem step_sched {s t : State} (h : step s = .next t) : t.sched = s.sched.tail := by
  obtain ⟨-, rfl⟩ | ⟨w, i, u, -, -, hu, rfl⟩ := step_next h
  · rfl
  · obtain ⟨-, -, -, -, -, hsettle⟩ := settle_block s.mover i s u
    obtain ⟨hexec, -⟩ := exec_host hu
    rw [hsettle, hexec, State.dropTurn_sched]

theorem step_stream_other {s t : State} (h : step s = .next t) {a : Agent} (ha : a ≠ s.mover) :
    t.stream a = s.stream a := by
  obtain ⟨-, rfl⟩ | ⟨w, i, u, -, -, hu, rfl⟩ := step_next h
  · exact s.stream_dropTurn a
  · rw [settle_stream_other i s u ha, exec_stream hu, State.stream_dropTurn]

/-- The mover's position advances exactly when it has an operation and that operation is enabled. -/
theorem step_stream_mover {s t : State} (h : step s = .next t) :
    t.stream s.mover =
      if (s.nextOp s.mover).any (enabled · s) then (s.stream s.mover).advance else s.stream s.mover := by
  obtain ⟨hw, rfl⟩ | ⟨w, i, u, hw, hd, hu, rfl⟩ := step_next h
  · rw [State.nextOp_eq_none_of_next hw]
    exact s.stream_dropTurn s.mover
  · rw [settle_stream_same, exec_stream hu, State.stream_dropTurn, State.nextOp_mover_of_nextWord hw hd, Option.any_some]

/-- Settles O9. -/
theorem positionAdvancesExactlyOnCompletion : Obligations.PositionAdvancesExactlyOnCompletion := by
  intro s t h
  have hmover := step_stream_mover h
  refine ⟨fun a => ?_, fun a => step_stream_other h, fun i hi he => ?_, fun i hi he => ?_, fun hi => ?_, step_sched h⟩
  · by_cases ha : a = s.mover
    · subst ha
      rw [hmover]
      split <;> rfl
    · rw [step_stream_other h ha]
  · simp [hmover, hi, he]
  · simp [hmover, hi, he]
  · simp [hmover, hi]

/-- Settles O38: a position moves only past a word that stands at it. -/
theorem stepKeepsPositions : Obligations.StepKeepsPositions := by
  intro s t hs h a hmem
  have hpos := hs a hmem
  by_cases ha : a = s.mover
  · subst ha
    rw [step_stream_mover h]
    split
    next hany =>
      obtain ⟨i, hi, -⟩ := (Option.any_eq_true _ _).1 hany
      exact State.pos_lt_of_nextOp hi
    next => exact hpos
  · rw [step_stream_other h ha]
    exact hpos

end Sys2Proof.Machine
end

section
/-! The block's fields after each operation: the history, the overflow flag, the logical state, COUNT and the STATUS word (10_state.md
R24 to R32): O24, O25, O27, O28, O29, O33, O34 and O36. -/

namespace Sys2Proof.Machine

/-! ### The fields after TAKE and after the control family -/

@[simp] theorem takeOp_buf (s : State) : (takeOp s).buf = s.buf := by
  obtain ⟨-, heq⟩ | ⟨m, -, heq⟩ := takeOp_cases s <;> rw [heq] <;> rfl

@[simp] theorem takeOp_ovf (s : State) : (takeOp s).ovf = s.ovf := by
  obtain ⟨-, heq⟩ | ⟨m, -, heq⟩ := takeOp_cases s <;> rw [heq] <;> rfl

@[simp] theorem takeOp_out (s : State) : (takeOp s).out = none := by
  obtain ⟨hout, heq⟩ | ⟨m, -, heq⟩ := takeOp_cases s <;> rw [heq]
  · exact hout
  · rfl

theorem takeOp_trace (s : State) : (takeOp s).trace = s.trace ++ s.out.toList.map .msg := by
  obtain ⟨hout, heq⟩ | ⟨m, hout, heq⟩ := takeOp_cases s <;> simp [heq, hout]

@[simp] theorem resetOp_buf (s : State) : (resetOp s).buf = [] := rfl
@[simp] theorem resetOp_ovf (s : State) : (resetOp s).ovf = false := rfl
@[simp] theorem resetOp_out (s : State) : (resetOp s).out = none := rfl
@[simp] theorem resetOp_trace (s : State) : (resetOp s).trace = s.trace ++ [.reset] := rfl

@[simp] theorem statusOp_buf (s : State) : (statusOp s).buf = s.buf := rfl
@[simp] theorem statusOp_ovf (s : State) : (statusOp s).ovf = s.ovf := rfl
@[simp] theorem statusOp_out (s : State) : (statusOp s).out = s.out := rfl
@[simp] theorem statusOp_trace (s : State) : (statusOp s).trace = s.trace ++ [.status (statusWord s)] := rfl

@[simp] theorem nopOp_buf (s : State) : (nopOp s).buf = s.buf := rfl
@[simp] theorem nopOp_ovf (s : State) : (nopOp s).ovf = s.ovf := rfl
@[simp] theorem nopOp_out (s : State) : (nopOp s).out = s.out := rfl
@[simp] theorem nopOp_trace (s : State) : (nopOp s).trace = s.trace := rfl

/-! ### The fields after FEED -/

theorem feedOp_of_out_ne_none {c : Config} {b : Byte} {s : State} (h : s.out ≠ none) : feedOp c b s = s.held := by
  simp [feedOp, feedCase_hold (Option.isSome_iff_ne_none.2 h)]

theorem feedOp_trace (c : Config) (b : Byte) (s : State) :
    (feedOp c b s).trace = s.trace ++ if s.out.isSome = true then [] else
      .input b :: if s.ovf = false ∧ (feedOp c b s).ovf = true then [.overflow] else [] := by
  obtain ⟨hout, heq⟩ | ⟨hout, ho, heq⟩ | ⟨hout, ho, -, heq⟩ | ⟨hout, ho, -, -, heq⟩ | ⟨hout, ho, -, -, heq⟩ :=
    feedOp_cases c b s
  · simp [heq, hout]
  all_goals simp [heq, hout, ho]

/-- In OVERFLOWED, FEED stores and emits nothing (R26, 40_framing.md R105). -/
theorem feedOp_of_ovf (c : Config) (b : Byte) {s : State} (h : s.ovf = true) :
    (feedOp c b s).buf = s.buf ∧ (feedOp c b s).ovf = true ∧ (feedOp c b s).out = s.out := by
  obtain ⟨-, heq⟩ | ⟨-, -, heq⟩ | ⟨-, ho, -⟩ | ⟨-, ho, -⟩ | ⟨-, ho, -⟩ := feedOp_cases c b s
  · simp [heq, h]
  · simp [heq, h]
  all_goals simp [h] at ho

theorem feedOp_ovf_rises {c : Config} {b : Byte} {s : State} (h : s.ovf = false) (ht : (feedOp c b s).ovf = true) :
    s.out = none ∧ b ≠ c.term ∧ c.cap ≤ s.buf.length := by
  obtain ⟨-, heq⟩ | ⟨-, ho, -⟩ | ⟨-, -, -, heq⟩ | ⟨-, -, -, -, heq⟩ | ⟨hout, -, hb, hl, -⟩ := feedOp_cases c b s
  · simp [heq, h] at ht
  · simp [h] at ho
  · simp [heq, h] at ht
  · simp [heq, h] at ht
  · exact ⟨hout, hb, hl⟩

/-! ### The history and the overflow flag -/

/-- Settles O24. -/
theorem historyRecordsExactlyTheEvents : Obligations.HistoryRecordsExactlyTheEvents := by
  intro i s t h
  have ht := exec_next_iff.1 h
  cases i <;> subst ht
  case nop => exact (List.append_nil _).symm
  case feed b => exact feedOp_trace _ b s
  case take => exact takeOp_trace s
  case reset => exact resetOp_trace s
  case status => exact statusOp_trace s

theorem exec_ovf_rises {i : Instr} {s t : State} (h : exec i s = .next t) (hs : s.ovf = false) (ht : t.ovf = true) :
    ∃ b, i = .feed b ∧ s.out = none ∧ b ≠ Config.hw.term ∧ Config.hw.cap ≤ s.buf.length := by
  have heq := exec_next_iff.1 h
  cases i <;> subst heq
  case feed b => exact ⟨b, rfl, feedOp_ovf_rises hs ht⟩
  all_goals simp [hs] at ht

theorem exec_frozen_of_ovf {i : Instr} {s t : State} (h : exec i s = .next t) (hs : s.ovf = true) (hi : i ≠ .reset) :
    t.buf = s.buf ∧ t.ovf = true ∧ (t.out = s.out ∨ t.out = none) := by
  have heq := exec_next_iff.1 h
  cases i <;> subst heq
  case feed b =>
    obtain ⟨hbuf, hovf, hout⟩ := feedOp_of_ovf Config.hw b hs
    exact ⟨hbuf, hovf, .inl hout⟩
  case reset => exact absurd rfl hi
  all_goals simp [hs]

theorem exec_ovf_falls {i : Instr} {s t : State} (h : exec i s = .next t) (hs : s.ovf = true) (ht : t.ovf = false) :
    i = .reset := by
  by_contra hi
  obtain ⟨-, hovf, -⟩ := exec_frozen_of_ovf h hs hi
  simp [ht] at hovf

theorem step_ovf_falls {s t : State} (h : step s = .next t) (hs : s.ovf = true) (ht : t.ovf = false) :
    s.nextOp s.mover = some .reset := by
  obtain ⟨-, rfl⟩ | ⟨w, i, u, hw, hd, hu, rfl⟩ := step_next h
  · simp [State.idle, hs] at ht
  · obtain ⟨-, hovf, -⟩ := settle_block s.mover i s u
    have hi : i = .reset := exec_ovf_falls hu hs (hovf.symm.trans ht)
    rw [State.nextOp_mover_of_nextWord hw hd, hi]

/-- Settles O25. -/
theorem overflowFlagRules : Obligations.OverflowFlagRules := by
  refine ⟨rfl, fun i s t h => ⟨exec_ovf_rises h, exec_ovf_falls h, fun hs hi => ?_⟩, fun s t => step_ovf_falls⟩
  obtain ⟨hbuf, -, hout⟩ := exec_frozen_of_ovf h hs hi
  exact ⟨hbuf, hout⟩

/-! ### The logical state -/

theorem State.logical_congr {s t : State} (hbuf : t.buf = s.buf) (hovf : t.ovf = s.ovf) : t.logical = s.logical := by
  rw [State.logical, State.logical, hbuf, hovf]

theorem State.logical_eq_overflowed_iff (s : State) : s.logical = .overflowed ↔ s.ovf = true := by
  cases ho : s.ovf <;> by_cases hl : s.buf.length = 0 <;> simp [State.logical, logicalOf, ho, hl]

theorem State.logical_eq_empty_iff (s : State) : s.logical = .empty ↔ s.ovf = false ∧ s.buf.length = 0 := by
  cases ho : s.ovf <;> by_cases hl : s.buf.length = 0 <;> simp [State.logical, logicalOf, ho, hl]

theorem State.logical_eq_accumulating_iff (s : State) :
    s.logical = .accumulating ↔ s.ovf = false ∧ 1 ≤ s.buf.length := by
  rw [Nat.one_le_iff_ne_zero]
  cases ho : s.ovf <;> by_cases hl : s.buf.length = 0 <;> simp [State.logical, logicalOf, ho, hl]

/-- Where FEED on an empty slot leads (R24). -/
theorem feedOp_logical {c : Config} {b : Byte} {s : State} (hout : s.out = none) :
    (feedOp c b s).logical =
      if s.ovf = true then .overflowed else if b = c.term then .empty
      else if s.buf.length < c.cap then .accumulating else .overflowed := by
  obtain ⟨hfull, -⟩ | ⟨-, ho, heq⟩ | ⟨-, ho, hb, heq⟩ | ⟨-, ho, hb, hl, heq⟩ | ⟨-, ho, hb, hl, heq⟩ := feedOp_cases c b s
  · simp [hout] at hfull
  · simp [State.logical, logicalOf, heq, ho]
  · subst hb
    simp [State.logical, logicalOf, heq, ho]
  · simp [State.logical, logicalOf, heq, ho, hb, hl]
  · simp [State.logical, logicalOf, heq, ho, hb, Nat.not_lt.2 hl]

/-- The operations that only look, and a FEED that holds, keep the logical state (R24). -/
theorem exec_logical_of_keeps {i : Instr} {s t : State} (h : exec i s = .next t)
    (hi : i = .nop ∨ i = .take ∨ i = .status ∨ ((∃ b, i = .feed b) ∧ s.out ≠ none)) : t.logical = s.logical := by
  have ht := exec_next_iff.1 h
  obtain rfl | rfl | rfl | ⟨⟨b, rfl⟩, hout⟩ := hi <;> subst ht
  · rfl
  · exact State.logical_congr (takeOp_buf s) (takeOp_ovf s)
  · rfl
  · rw [feedOp_of_out_ne_none hout]
    rfl

/-- Settles O27. -/
theorem logicalStateTransitions : Obligations.LogicalStateTransitions := by
  intro s hs
  obtain ⟨⟨hlen, -⟩, -, -⟩ := hs
  have hcap : 0 < Config.hw.cap := by decide
  refine ⟨s.logical_eq_overflowed_iff, s.logical_eq_empty_iff, ?_, fun b t hout h => ?_, fun t h => ?_,
    fun i t h => exec_logical_of_keeps h⟩
  · rw [State.logical_eq_accumulating_iff]
    exact ⟨fun ⟨ho, hl⟩ => ⟨ho, hl, hlen⟩, fun ⟨ho, hl, _⟩ => ⟨ho, hl⟩⟩
  · obtain rfl : t = feedOp Config.hw b s := exec_next_iff.1 h
    rw [feedOp_logical hout, State.logical_eq_empty_iff, State.logical_eq_accumulating_iff,
      State.logical_eq_overflowed_iff]
    refine ⟨?_, ?_, ?_, ?_, ?_, ?_⟩
    · rintro ⟨ho, hl⟩ hb
      simp [ho, hl, hb, hcap]
    · rintro ⟨ho, -⟩ hb
      simp [ho, hb]
    · rintro ⟨ho, -⟩ hb
      simp [ho, hb]
    · rintro ⟨ho, -⟩ hb hl
      simp [ho, hb, hl]
    · rintro ⟨ho, -⟩ hb hl
      simp [ho, hb, hl]
    · intro ho
      simp [ho]
  · obtain rfl : t = resetOp s := exec_next_iff.1 h
    rfl

/-! ### COUNT and the STATUS word -/

theorem statusCount_statusWord_toNat {s : State} (h : s.buf.length < 256) :
    (statusCount (statusWord s)).toNat = s.buf.length := by
  rw [statusWord, statusCount_statusBits, BitVec.toNat_ofNat, Nat.mod_eq_of_lt h]

theorem feedOp_count_of_ne_term {c : Config} {b : Byte} (hb : b ≠ c.term) (s : State) :
    (feedOp c b s).count = s.count + if s.out = none ∧ s.ovf = false ∧ s.count < c.cap then 1 else 0 := by
  obtain ⟨hout, heq⟩ | ⟨hout, ho, heq⟩ | ⟨-, -, hterm, -⟩ | ⟨hout, ho, -, hl, heq⟩ | ⟨hout, ho, -, hl, heq⟩ :=
    feedOp_cases c b s
  · simp [State.count, heq, Option.isSome_iff_ne_none.1 hout]
  · simp [State.count, heq, ho]
  · exact absurd hterm hb
  · simp [State.count, heq, hout, ho, hl]
  · simp [State.count, heq, Nat.not_lt.2 hl]

theorem feedOp_term_count {c : Config} {s : State} (hout : s.out = none) (ho : s.ovf = false) :
    (feedOp c c.term s).count = 0 := by
  simp [feedOp, feedCase_terminate hout ho, State.count]

/-- Settles O28. -/
theorem countNeverWraps : Obligations.CountNeverWraps := by
  intro c s hc hs
  obtain ⟨⟨hlen, -⟩, -, hovf⟩ := hs
  have hcap : 1 ≤ c.cap ∧ c.cap ≤ 254 := of_decide_eq_true hc
  have hfrozen (ho : s.ovf = true) : s.count = c.cap := by
    obtain ⟨hfull, -⟩ := hovf ho
    exact hfull
  refine ⟨hlen, statusCount_statusWord_toNat (by omega), fun b hb => feedOp_count_of_ne_term hb s, feedOp_term_count, rfl,
    congrArg List.length (takeOp_buf s), rfl, rfl, fun ho => ⟨hfrozen ho, fun b => ?_⟩⟩
  obtain ⟨hbuf, -, -⟩ := feedOp_of_ovf c b ho
  rw [State.count, hbuf]
  exact hfrozen ho

theorem statusState_statusWord (s : State) : statusState (statusWord s) = stateCode s.logical :=
  statusState_statusBits s.buf s.ovf s.out

theorem stateCode_eq_two_iff (l : Logical) : stateCode l = 0b10#2 ↔ l = .overflowed := by cases l <;> decide

/-- Settles O29: the fields of the word as Laws/Ops.lean reads them, and STATE `10` for OVERFLOWED only. -/
theorem statusWordLayout : Obligations.StatusWordLayout := by
  refine ⟨fun s => ?_, by decide⟩
  have hovf : statusOvf (statusWord s) = s.ovf := statusOvf_statusBits s.buf s.ovf s.out
  rw [statusState_statusWord, hovf]
  refine ⟨by cases s.logical <;> rfl, stateCode_ne_three _, ?_, rfl, ?_, statusReserved_statusBits s.buf s.ovf s.out, ?_, rfl⟩
  · rw [statusWord, statusMsgp_statusBits, Option.isSome_iff_exists]
  · rw [stateCode_eq_two_iff, State.logical_eq_overflowed_iff]
  · rintro ⟨⟨hlen, -⟩, -, -⟩
    have hcap : Config.hw.cap < 256 := by decide
    exact ⟨statusCount_statusWord_toNat (hlen.trans_lt hcap), hlen⟩

/-! ### The state after reset, and the reachable states -/

theorem statusWord_resetOp (s : State) : statusWord (resetOp s) = 0x0000#16 := by
  have hbits : statusBits [] false none = 0x0000#16 := by decide
  exact hbits

/-- Settles O33. -/
theorem resetStateValues : Obligations.ResetStateValues := by
  refine ⟨⟨rfl, rfl, rfl, rfl, by decide, rfl⟩, fun s t h => ?_⟩
  obtain rfl : t = resetOp s := exec_next_iff.1 h
  exact ⟨rfl, rfl, rfl, rfl, statusWord_resetOp s, rfl⟩

theorem positionsWf_of_pos_eq_zero {s : State} (h : ∀ a, (s.stream a).pos = 0) : PositionsWf s := fun a _ => by
  rw [h a]
  exact Nat.zero_le _

theorem State.reset_positionsWf : PositionsWf State.reset :=
  positionsWf_of_pos_eq_zero fun a => by cases a <;> rfl

theorem State.loaded_positionsWf (sched : List Agent) (h so si co : List Word) :
    PositionsWf (State.loaded sched h so si co) :=
  positionsWf_of_pos_eq_zero fun a => by cases a <;> rfl

/-- Settles O34: loading the issuers' words leaves the block as it is at reset. -/
theorem invariantsHoldAtPowerOn : Obligations.InvariantsHoldAtPowerOn := by
  intro c sched h so si co
  have htrace : TraceInv c (State.loaded sched h so si co) :=
    traceInv_of_sameBlock (State.loaded_sameBlock sched h so si co) (State.reset_traceInv c)
  exact ⟨State.loaded_blockInv c sched h so si co, State.loaded_positionsWf sched h so si co, htrace,
    State.reset_blockInv c, State.reset_positionsWf, State.reset_traceInv c⟩

theorem enabled_feed_of_out_eq_some {s : State} {m : Message} (h : s.out = some m) (b : Byte) :
    enabled (.feed b) s = false := by
  simp [enabled, h]

/-- Settles O36: the invariant holds at power-on and every step keeps it. -/
theorem reachableStatesMeetTheInvariant : Obligations.ReachableStatesMeetTheInvariant := by
  refine ⟨fun sched h so si co k t hrun => ?_, fun s t h => ?_, rfl⟩
  · have ht : BlockInv Config.hw t :=
      run_keeps_of_step_keeps (fun _ _ => step_blockInv) k (State.loaded_blockInv _ sched h so si co) hrun
    obtain ⟨⟨hlen, hbytes⟩, hslot, -⟩ := ht
    refine ⟨hlen, hbytes, fun m hm => ?_⟩
    obtain ⟨hlast, hinit, hpos, hmax⟩ := hslot m hm
    exact ⟨hpos, hmax, hlast, hinit, enabled_feed_of_out_eq_some hm⟩
  · obtain h | h := h
    · obtain rfl : t = takeOp s := exec_next_iff.1 h
      exact takeOp_out s
    · obtain rfl : t = resetOp s := exec_next_iff.1 h
      rfl

end Sys2Proof.Machine
end

section
/-! The block's storage and its ways in and out (20_memory.md): the buffer under every operation (R50), the side effects of access
(R56), the framing function without overflow (R52), the output lanes (R53) and several instances (R63): O23, O31, O43, O54 and O55. -/

namespace Sys2Proof.Machine

/-! ### The buffer -/

/-- What FEED does to the buffer: nothing, append its byte where there is room, or drain it into the slot (R50). -/
theorem feedOp_buf_cases (c : Config) (b : Byte) (s : State) :
    (feedOp c b s).buf = s.buf ∨
    (b ≠ c.term ∧ s.buf.length < c.cap ∧ (feedOp c b s).buf = s.buf ++ [b]) ∨
    (b = c.term ∧ (feedOp c b s).buf = [] ∧ (feedOp c b s).out = some (s.buf ++ [c.term])) := by
  obtain ⟨-, heq⟩ | ⟨-, -, heq⟩ | ⟨-, -, hb, heq⟩ | ⟨-, -, hb, hl, heq⟩ | ⟨-, -, -, -, heq⟩ := feedOp_cases c b s <;> rw [heq]
  · exact .inl rfl
  · exact .inl rfl
  · exact .inr (.inr ⟨hb, rfl, rfl⟩)
  · exact .inr (.inl ⟨hb, hl, rfl⟩)
  · exact .inl rfl

/-- As `feedOp_buf_cases`, for every operation of this hardware. -/
theorem exec_buf_cases {i : Instr} {s t : State} (h : exec i s = .next t) :
    t.buf = s.buf ∨
    (∃ b, i = .feed b ∧ b ≠ Config.hw.term ∧ s.buf.length < Config.hw.cap ∧ t.buf = s.buf ++ [b]) ∨
    (i = .feed Config.hw.term ∧ t.buf = [] ∧ t.out = some (s.buf ++ [Config.hw.term])) ∨
    (i = .reset ∧ t.buf = []) := by
  have ht := exec_next_iff.1 h
  cases i <;> subst ht
  case nop => exact .inl rfl
  case feed b =>
    obtain hbuf | ⟨hb, hl, hbuf⟩ | ⟨rfl, hbuf, hout⟩ := feedOp_buf_cases Config.hw b s
    · exact .inl hbuf
    · exact .inr (.inl ⟨b, rfl, hb, hl, hbuf⟩)
    · exact .inr (.inr (.inl ⟨rfl, hbuf, hout⟩))
  case take => exact .inl (takeOp_buf s)
  case reset => exact .inr (.inr (.inr ⟨rfl, rfl⟩))
  case status => exact .inl rfl

/-- Settles O23: an append needs room, and the other ways to the buffer do not lengthen it. -/
theorem bufferIsReachedByAppendAndDrainOnly : Obligations.BufferIsReachedByAppendAndDrainOnly := by
  intro i s t h
  obtain hbuf | ⟨b, hi, hb, hl, hbuf⟩ | ⟨hi, hbuf, hout⟩ | ⟨hi, hbuf⟩ := exec_buf_cases h
  · exact ⟨.inl hbuf, fun hcap => hbuf ▸ hcap⟩
  · exact ⟨.inr (.inl ⟨b, hi, hb, hbuf⟩), fun _ => by simpa [hbuf] using hl⟩
  · exact ⟨.inr (.inr (.inl ⟨hi, hbuf, hout⟩)), fun _ => by simp [hbuf]⟩
  · exact ⟨.inr (.inr (.inr ⟨hi, hbuf⟩)), fun _ => by simp [hbuf]⟩

/-! ### The side effects of access -/

/-- FEED on an empty slot records its byte, whatever else it does (10_state.md R30). -/
theorem feedOp_trace_length_lt (c : Config) (b : Byte) {s : State} (hout : s.out = none) :
    s.trace.length < (feedOp c b s).trace.length := by
  rw [feedOp_trace, hout]
  simp

theorem takeOp_of_out_eq_none {s : State} (h : s.out = none) : takeOp s = s.held := by
  simp [takeOp, h]

@[simp] theorem statusWord_statusOp (s : State) : statusWord (statusOp s) = statusWord s := rfl

@[simp] theorem statusOp_result (s : State) : (statusOp s).result = .status (statusWord s) := rfl

@[simp] theorem resetOp_result (s : State) : (resetOp s).result = .nothing := rfl

/-- Settles O31: the first TAKE empties the slot, on which the second holds; STATUS keeps the fields its word is computed from. -/
theorem sideEffectsOfAccess : Obligations.SideEffectsOfAccess := by
  refine fun s => ⟨fun b t hout h => ?_, fun t _ h => ?_, fun t h => ?_, fun t u ht hu => ?_⟩
  · obtain rfl : t = feedOp Config.hw b s := exec_next_iff.1 h
    exact feedOp_trace_length_lt _ b hout
  · obtain rfl : t = takeOp s := exec_next_iff.1 h
    exact ⟨takeOp_out s, exec_next_iff.2 (takeOp_of_out_eq_none (takeOp_out s)).symm⟩
  · obtain rfl : t = statusOp s := exec_next_iff.1 h
    refine ⟨rfl, rfl, rfl, statusOp (statusOp s), exec_next_iff.2 rfl, ?_⟩
    rw [statusOp_result, statusOp_result, statusWord_statusOp]
  · obtain rfl : t = resetOp s := exec_next_iff.1 ht
    obtain rfl : u = resetOp (resetOp s) := exec_next_iff.1 hu
    simp

/-! ### The framing function, byte by byte -/

section
variable {c : Config} {buf : List Byte} {b : Byte}

theorem frameBytes_cons_term (hb : b = c.term) (bs : List Byte) :
    frameBytes c buf false (b :: bs) =
      { frameBytes c [] false bs with msgs := (buf ++ [c.term]) :: (frameBytes c [] false bs).msgs } := by
  simp [frameBytes, hb]

theorem frameBytes_cons_store (hb : b ≠ c.term) (hl : buf.length < c.cap) (bs : List Byte) :
    frameBytes c buf false (b :: bs) = frameBytes c (buf ++ [b]) false bs := by
  simp [frameBytes, hb, hl]

theorem frameBytes_cons_overflow (hb : b ≠ c.term) (hl : c.cap ≤ buf.length) (bs : List Byte) :
    frameBytes c buf false (b :: bs) = { buf := buf, ovf := true, msgs := [], overflowed := true } := by
  simp [frameBytes, hb, Nat.not_lt.2 hl, frameBytes_overflowed]

end

/-- The one inversion of the framing function on a sequence that does not overflow: its first byte terminates or is stored. -/
theorem frameBytes_cons_cases {c : Config} {buf : List Byte} {b : Byte} {bs : List Byte}
    (h : (frameBytes c buf false (b :: bs)).overflowed = false) :
    (b = c.term ∧ (frameBytes c [] false bs).overflowed = false ∧
      frameBytes c buf false (b :: bs) =
        { frameBytes c [] false bs with msgs := (buf ++ [c.term]) :: (frameBytes c [] false bs).msgs }) ∨
    (b ≠ c.term ∧ buf.length < c.cap ∧ (frameBytes c (buf ++ [b]) false bs).overflowed = false ∧
      frameBytes c buf false (b :: bs) = frameBytes c (buf ++ [b]) false bs) := by
  by_cases hb : b = c.term
  · have heq := frameBytes_cons_term (buf := buf) hb bs
    exact .inl ⟨hb, by rwa [heq] at h, heq⟩
  · obtain hl | hl := Nat.lt_or_ge buf.length c.cap
    · have heq := frameBytes_cons_store hb hl bs
      exact .inr ⟨hb, hl, heq ▸ h, heq⟩
    · simp [frameBytes_cons_overflow hb hl] at h

theorem frameBytes_flatten {c : Config} {buf bs : List Byte} (h : (frameBytes c buf false bs).overflowed = false) :
    (frameBytes c buf false bs).msgs.flatten ++ (frameBytes c buf false bs).buf = buf ++ bs := by
  induction bs generalizing buf with
  | nil => simp [frameBytes]
  | cons b bs ih =>
    obtain ⟨rfl, hrest, heq⟩ | ⟨-, -, hrest, heq⟩ := frameBytes_cons_cases h <;> simp [heq, ih hrest]

/-- The terminator completes what is pending, and what is stored meanwhile stays within CAP and free of TERM (R27). -/
theorem frameBytes_msgs_wf {c : Config} {buf bs : List Byte} (h : (frameBytes c buf false bs).overflowed = false)
    (hlen : buf.length ≤ c.cap) (hbuf : ∀ b ∈ buf, b ≠ c.term) :
    ∀ m ∈ (frameBytes c buf false bs).msgs, MessageWf c m := by
  induction bs generalizing buf with
  | nil => simp [frameBytes]
  | cons b bs ih =>
    have hwf : BufWf c { State.reset with buf := buf } := ⟨hlen, hbuf⟩
    obtain ⟨-, hrest, heq⟩ | ⟨hb, hl, hrest, heq⟩ := frameBytes_cons_cases h <;> rw [heq]
    · exact List.forall_mem_cons.2 ⟨messageWf_of_bufWf hwf, ih hrest (Nat.zero_le _) (by simp)⟩
    · obtain ⟨hlen', hbuf'⟩ := State.bufAppend_bufWf hwf hb hl
      exact ih hrest hlen' hbuf'

/-- Settles O43. -/
theorem framingLosesNoByte : Obligations.FramingLosesNoByte := fun _ _ _ h =>
  ⟨frameBytes_flatten h, frameBytes_msgs_wf h⟩

/-! ### The output lanes -/

theorem packLanes_lt (bs : List Byte) : packLanes bs < 2 ^ (8 * bs.length) := by
  induction bs with
  | nil => simp [packLanes]
  | cons b bs ih =>
    have hb : b.toNat < 256 := b.isLt
    rw [packLanes, List.length_cons, Nat.mul_succ, Nat.pow_add]
    omega

/-- Lane `i` stands in the eight bits from `8 * i` up (R53). -/
theorem packLanes_lane (bs : List Byte) (i : Nat) (hi : i < bs.length) :
    packLanes bs / 2 ^ (8 * i) % 2 ^ 8 = bs[i].toNat := by
  induction bs generalizing i with
  | nil => simp at hi
  | cons b bs ih =>
    have hb : b.toNat < 256 := b.isLt
    cases i with
    | zero =>
      simp only [packLanes, Nat.mul_zero, Nat.pow_zero, Nat.div_one, List.getElem_cons_zero]
      omega
    | succ i =>
      have hrest : packLanes (b :: bs) / 2 ^ 8 = packLanes bs := by
        rw [packLanes]
        omega
      rw [Nat.mul_succ, Nat.add_comm, Nat.pow_add, ← Nat.div_div_eq_div_mul, hrest, List.getElem_cons_succ]
      exact ih i (Nat.lt_of_succ_lt_succ hi)

theorem outLane_of_lt {s : State} {m : Message} (h : s.out = some m) (tick : Nat) {i : Nat} (hi : i < m.length) :
    outLane tick s i = m[i] := by
  simp [outLane, h, hi]

/-- Each lane of the port is what the lane shows: the packed lanes fit the port's width. -/
theorem extractLsb'_outData (c : Config) (tick : Nat) (s : State) {i : Nat} (hi : i < c.msgMax) :
    (outData c tick s).extractLsb' (8 * i) 8 = outLane tick s i := by
  have hfit := packLanes_lt ((List.range c.msgMax).map (outLane tick s))
  have hlane := packLanes_lane ((List.range c.msgMax).map (outLane tick s)) i (by simpa using hi)
  simp only [List.length_map, List.length_range, List.getElem_map, List.getElem_range] at hfit hlane
  apply BitVec.eq_of_toNat_eq
  rw [outData, BitVec.extractLsb'_toNat, BitVec.toNat_ofNat, Nat.mod_eq_of_lt hfit, Nat.shiftRight_eq_div_pow, hlane]

theorem outLen_toNat {s : State} {m : Message} (h : s.out = some m) (tick : Nat) (hm : m.length < 256) :
    (outLen tick s).toNat = m.length := by
  simp [outLen, h, Nat.mod_eq_of_lt hm]

/-- Settles O54: `CAP + 1` is at most 255, and every byte of the message has a lane of its own. -/
theorem outDataCarriesTheMessage : Obligations.OutDataCarriesTheMessage := by
  intro c tick s m hc hout hm
  have hcap : 1 ≤ c.cap ∧ c.cap ≤ 254 := of_decide_eq_true hc
  have hlen : m.length < 256 := by
    rw [Config.msgMax] at hm
    omega
  refine ⟨outLen_toNat hout tick hlen, fun i hi => ?_⟩
  rw [extractLsb'_outData c tick s (hi.trans_le hm), outLane_of_lt hout tick hi]

/-! ### Several instances -/

/-- The one inversion of a step of instance `k`. -/
theorem stepInstance_next {k : Nat} {sys sys' : List State} (h : stepInstance k sys = .next sys') :
    (sys[k]? = none ∧ sys' = sys) ∨
    ∃ s t, sys[k]? = some s ∧ step s = .next t ∧ sys' = sys.set k t := by
  unfold stepInstance at h
  split at h
  next hk =>
    cases h
    exact .inl ⟨hk, rfl⟩
  next s hk =>
    split at h
    next t ht =>
      cases h
      exact .inr ⟨s, t, hk, ht, rfl⟩
    next => cases h
    next => cases h

/-- Settles O55: a step writes its own instance's place in the list. -/
theorem instancesShareNothing : Obligations.InstancesShareNothing := by
  intro k sys sys' h
  obtain ⟨hk, rfl⟩ | ⟨s, t, hk, ht, rfl⟩ := stepInstance_next h
  · exact ⟨rfl, fun _ _ => rfl, fun s hs => by simp [hk] at hs⟩
  · have hlt : k < sys.length := (List.getElem?_eq_some_iff.1 hk).1
    refine ⟨List.length_set, fun j hj => List.getElem?_set_ne hj.symm, fun s' hs' => ?_⟩
    obtain rfl : s = s' := Option.some.inj (hk.symm.trans hs')
    exact ⟨t, ht, List.getElem?_set_self hlt⟩

end Sys2Proof.Machine
end

section
/-! The operation word and its three fields, the decoder and the encoder (30_encoding.md R70 to R74): a word is its fields, an
operation's word is its opcode, zeros and its operand, and a word decodes to an operation exactly when it is that operation's
word. O2, O3, O1, O7, O5 and O4 follow. -/

namespace Sys2Proof

/-! ### A word is its fields (R70) -/

theorem append_fields (w : Word) : opcField w ++ zField w ++ dataField w = w := by
  have hhigh : opcField w ++ zField w = w.extractLsb' 8 8 := BitVec.extractLsb'_append_extractLsb'_eq_extractLsb' rfl
  rw [hhigh]
  exact BitVec.extractLsb'_append_extractLsb'

theorem word_eq_iff_fields (v w : Word) :
    v = w ↔ opcField v = opcField w ∧ zField v = zField w ∧ dataField v = dataField w := by
  refine ⟨fun h => h ▸ ⟨rfl, rfl, rfl⟩, fun ⟨ho, hz, hd⟩ => ?_⟩
  rw [← append_fields v, ho, hz, hd, append_fields]

/-! ### The word of an operation (R71, R72) -/

/-- The opcode of an operation's row in R72. -/
def Instr.opcode : Instr → BitVec 4
  | .nop => 0
  | .feed _ => 1
  | .take => 2
  | .reset => 3
  | .status => 4

/-- What an operation's word holds in its data field: FEED's byte, else 0 (R71). -/
def Instr.dataByte : Instr → Byte
  | .feed b => b
  | _ => 0

theorem encode_feed_eq_append (b : Byte) : encode (.feed b) = 0x10#8 ++ b := by
  have hb : b.setWidth 16 = 0#8 ++ b := BitVec.setWidth_eq_append (by decide)
  calc encode (.feed b) = (0x10#8 ++ 0#8) ||| (0#8 ++ b) := by rw [encode, hb]; rfl
    _ = 0x10#8 ++ b := by rw [BitVec.or_append, BitVec.or_zero, BitVec.zero_or]

theorem fields_encode (i : Instr) :
    opcField (encode i) = i.opcode ∧ zField (encode i) = 0 ∧ dataField (encode i) = i.dataByte := by
  cases i with
  | feed b =>
    rw [encode_feed_eq_append]
    exact ⟨BitVec.extractLsb'_append_eq_of_le (by decide), BitVec.extractLsb'_append_eq_of_le (by decide),
      BitVec.extractLsb'_append_eq_right⟩
  | _ => exact ⟨rfl, rfl, rfl⟩

theorem eq_encode_iff {w : Word} {i : Instr} :
    w = encode i ↔ opcField w = i.opcode ∧ zField w = 0 ∧ dataField w = i.dataByte := by
  obtain ⟨ho, hz, hd⟩ := fields_encode i
  rw [word_eq_iff_fields, ho, hz, hd]

/-- The mask of FEED's row leaves the two upper fields (R72). -/
theorem feedRow_iff (w : Word) : w &&& 0xFF00#16 = 0x1000#16 ↔ w = encode (.feed (dataField w)) := by
  have ho : opcField (w &&& 0xFF00#16) = opcField w := BitVec.extractLsb'_and.trans BitVec.and_allOnes
  have hz : zField (w &&& 0xFF00#16) = zField w := BitVec.extractLsb'_and.trans BitVec.and_allOnes
  have hd : dataField (w &&& 0xFF00#16) = 0 := BitVec.extractLsb'_and.trans BitVec.and_zero
  rw [word_eq_iff_fields, ho, hz, hd, eq_encode_iff]
  exact ⟨fun ⟨ho, hz, _⟩ => ⟨ho, hz, rfl⟩, fun ⟨ho, hz, _⟩ => ⟨ho, hz, rfl⟩⟩

theorem Instr.wellFormed_eq_true (i : Instr) : i.wellFormed = true := by
  cases i with
  | feed b => exact decide_eq_true (Nat.le_of_lt_succ b.isLt)
  | _ => rfl

/-! ### The decoder (R73, R74) -/

theorem decode_encode (i : Instr) : decode (encode i) = .op i := by
  cases i with
  | feed b =>
    obtain ⟨ho, -, hd⟩ := fields_encode (.feed b)
    have hrow : encode (.feed b) &&& 0xFF00#16 = 0x1000#16 := by rw [feedRow_iff, hd]; rfl
    have hnop : encode (.feed b) ≠ 0x0000#16 := fun h => by rw [h] at hrow; exact absurd hrow (by decide)
    rw [decode, if_neg hnop, if_pos hrow, hd]
    rfl
  | _ => decide

/-- The one inversion of the decoder. -/
theorem decode_cases (w : Word) : (∃ i, w = encode i) ∨ decode w = .reserved w := by
  unfold decode
  split
  next h => exact .inl ⟨.nop, h⟩
  split
  next h => exact .inl ⟨_, (feedRow_iff w).1 h⟩
  split
  next h => exact .inl ⟨.take, h⟩
  split
  next h => exact .inl ⟨.reset, h⟩
  split
  next h => exact .inl ⟨.status, h⟩
  exact .inr rfl

theorem decode_eq_op_iff {w : Word} {i : Instr} : decode w = .op i ↔ w = encode i := by
  refine ⟨fun h => ?_, fun h => h ▸ decode_encode i⟩
  obtain ⟨j, rfl⟩ | hr := decode_cases w
  · rw [decode_encode] at h
    rw [Decoded.op.inj h]
  · cases hr.symm.trans h

theorem decode_eq_reserved_iff {w v : Word} : decode w = .reserved v ↔ v = w ∧ ∀ i, w ≠ encode i := by
  constructor
  · intro h
    have hne : ∀ i, w ≠ encode i := fun i hi => by simp [hi, decode_encode] at h
    obtain ⟨i, hi⟩ | hr := decode_cases w
    · exact absurd hi (hne i)
    · exact ⟨Decoded.reserved.inj (h.symm.trans hr), hne⟩
  · rintro ⟨rfl, hne⟩
    exact (decode_cases v).resolve_left fun ⟨i, hi⟩ => hne i hi

/-- Settles O2: an operation's type already makes it well-formed, so the hypothesis is not used. -/
theorem decodeOfEncodeIsTheOperation : Obligations.DecodeOfEncodeIsTheOperation := fun i _ => decode_encode i

/-- Settles O3. -/
theorem encodeOfDecodeIsTheWord : Obligations.EncodeOfDecodeIsTheWord := fun _ i h =>
  ⟨(decode_eq_op_iff.1 h).symm, i.wellFormed_eq_true⟩

/-- Settles O1. -/
theorem sampleWordsDecode : Obligations.SampleWordsDecode := by
  unfold Obligations.SampleWordsDecode
  decide

/-- Settles O7. -/
theorem reservedWordIsRefused : Obligations.ReservedWordIsRefused := by
  intro s w v hw hd
  obtain ⟨rfl, -⟩ := decode_eq_reserved_iff.1 hd
  simp [Machine.step, hw, hd]

/-! ### The reserved words by their fields (R74) -/

/-- The opcodes of R74's first bullet are those of no operation. -/
theorem five_le_opcode_iff (o : BitVec 4) : 5 ≤ o.toNat ↔ o ≠ 1#4 ∧ o ∉ [0#4, 2#4, 3#4, 4#4] := by
  revert o
  decide

theorem exists_eq_encode_iff (w : Word) :
    (∃ i, w = encode i) ↔
      (opcField w = 1#4 ∧ zField w = 0#4) ∨ (opcField w ∈ [0#4, 2#4, 3#4, 4#4] ∧ zField w = 0#4 ∧ dataField w = 0#8) := by
  simp only [eq_encode_iff]
  constructor
  · rintro ⟨i, ho, hz, hd⟩
    cases i with
    | feed b => exact .inl ⟨ho, hz⟩
    | _ => exact .inr ⟨by rw [ho]; decide, hz, hd⟩
  · rintro (⟨ho, hz⟩ | ⟨ho, hz, hd⟩)
    · exact ⟨.feed (dataField w), ho, hz, rfl⟩
    · simp only [List.mem_cons, List.not_mem_nil, or_false] at ho
      obtain ho | ho | ho | ho := ho
      · exact ⟨.nop, ho, hz, hd⟩
      · exact ⟨.take, ho, hz, hd⟩
      · exact ⟨.reset, ho, hz, hd⟩
      · exact ⟨.status, ho, hz, hd⟩

/-- Settles O5: the three bullets together deny both kinds of operation word. -/
theorem reservedWordsAreTheListedOnes : Obligations.ReservedWordsAreTheListedOnes := by
  intro w
  have hres : decode w = .reserved w ↔ ¬ ∃ i, w = encode i := by simp [decode_eq_reserved_iff]
  have hone : opcField w = 1#4 → opcField w ∉ [0#4, 2#4, 3#4, 4#4] := fun ho => by rw [ho]; decide
  rw [hres, exists_eq_encode_iff, five_le_opcode_iff]
  tauto

/-! ### The rows of the opcode map (R72) -/

theorem oneRow (i : Instr) : Laws.OneRow.Statement i := by
  cases i with
  | nop => exact Laws.OneRow.nop
  | feed b => exact Laws.OneRow.feed b
  | take => exact Laws.OneRow.take
  | reset => exact Laws.OneRow.reset
  | status => exact Laws.OneRow.status

/-- A row covers no words but an operation's. -/
theorem exists_eq_encode_of_covers {r : OpcodeRow} (hr : r ∈ opcodeTable) {w : Word} (h : r.covers w = true) :
    ∃ i, w = encode i := by
  have h := of_decide_eq_true h
  have hfull : w &&& 0xFFFF#16 = w := BitVec.and_allOnes
  simp only [opcodeTable, List.mem_cons, List.not_mem_nil, or_false] at hr
  obtain rfl | rfl | rfl | rfl | rfl := hr
  · exact ⟨.nop, hfull.symm.trans h⟩
  · exact ⟨_, (feedRow_iff w).1 h⟩
  · exact ⟨.take, hfull.symm.trans h⟩
  · exact ⟨.reset, hfull.symm.trans h⟩
  · exact ⟨.status, hfull.symm.trans h⟩

/-- Settles O4: OneRow gives the row of an operation; a reserved word has none, since a row covers operations' words only. -/
theorem decodeFollowsOpcodeRows : Obligations.DecodeFollowsOpcodeRows := by
  refine ⟨rfl, fun w => ⟨fun i hd => ?_, fun ⟨v, hd⟩ => ?_, fun hnone => ?_⟩⟩
  · rw [decode_eq_op_iff.1 hd]
    exact oneRow i
  · obtain ⟨-, hne⟩ := decode_eq_reserved_iff.1 hd
    refine List.filter_eq_nil_iff.2 fun r hr hcov => ?_
    obtain ⟨i, hi⟩ := exists_eq_encode_of_covers hr hcov
    exact hne i hi
  · refine ⟨w, decode_eq_reserved_iff.2 ⟨rfl, ?_⟩⟩
    rintro i rfl
    exact absurd ((congrArg _ hnone).symm.trans (oneRow i)) (by simp)

end Sys2Proof
end

section
/-! The assembler (30_encoding.md R76, R77) and the port mapping (R78): the operands that assemble are exactly the numbers of
bytes, and an edge's operation is the first of R78's four whose condition holds. O52, O51 and O53. -/

namespace Sys2Proof.Machine

/-! ### Byte operands (R76) -/

theorem byteOperand_of_le {n : Nat} (h : n ≤ 255) : byteOperand n = .ok (BitVec.ofNat 8 n) := by
  simp [byteOperand, byteInRange, h]

theorem byteOperand_of_gt {n : Nat} (h : 255 < n) : byteOperand n = .error (.byteOutOfRange n) := by
  simp [byteOperand, byteInRange, Nat.not_le.2 h]

theorem byteOperand_eq_ok_iff {n : Nat} {b : Byte} : byteOperand n = .ok b ↔ n = b.toNat := by
  constructor
  · intro h
    by_cases hn : n ≤ 255
    · obtain rfl := Except.ok.inj ((byteOperand_of_le hn).symm.trans h)
      exact (Nat.mod_eq_of_lt (Nat.lt_succ_of_le hn)).symm
    · cases (byteOperand_of_gt (Nat.not_le.1 hn)).symm.trans h
  · rintro rfl
    rw [byteOperand_of_le (Nat.le_of_lt_succ b.isLt), BitVec.ofNat_toNat, BitVec.setWidth_eq]

theorem byteOperands_cons_eq_ok_iff {n : Nat} {ns : List Nat} {bs : List Byte} :
    byteOperands (n :: ns) = .ok bs ↔ ∃ b cs, byteOperand n = .ok b ∧ byteOperands ns = .ok cs ∧ bs = b :: cs := by
  rw [byteOperands]
  cases byteOperand n with
  | error e => simp
  | ok b => cases byteOperands ns <;> simp [eq_comm]

/-- A chunk's operands assemble to the bytes whose numbers they are. -/
theorem byteOperands_eq_ok_iff {ns : List Nat} {bs : List Byte} : byteOperands ns = .ok bs ↔ ns = bs.map BitVec.toNat := by
  induction ns generalizing bs with
  | nil =>
    rw [byteOperands, eq_comm (b := bs.map _), List.map_eq_nil_iff, Except.ok.injEq, eq_comm]
  | cons n ns ih =>
    simp only [byteOperands_cons_eq_ok_iff, byteOperand_eq_ok_iff, ih]
    constructor
    · rintro ⟨b, cs, rfl, rfl, rfl⟩
      rfl
    · intro h
      obtain ⟨b, cs, rfl, hb, hcs⟩ := List.map_eq_cons_iff.1 h.symm
      exact ⟨b, cs, hb.symm, hcs.symm, rfl⟩

theorem mem_range_byte_toNat (n : Nat) : n ∈ Set.range (BitVec.toNat : Byte → Nat) ↔ n ≤ 255 := by
  constructor
  · rintro ⟨b, rfl⟩
    exact Nat.le_of_lt_succ b.isLt
  · exact fun h => ⟨BitVec.ofNat 8 n, Nat.mod_eq_of_lt (Nat.lt_succ_of_le h)⟩

theorem exists_byteOperands_eq_ok_iff (ns : List Nat) : (∃ bs, byteOperands ns = .ok bs) ↔ ∀ n ∈ ns, n ≤ 255 := by
  simp only [byteOperands_eq_ok_iff, ← mem_range_byte_toNat]
  have hrange := Set.ext_iff.1 (Set.range_list_map (BitVec.toNat : Byte → Nat)) ns
  exact (exists_congr fun _ => eq_comm).trans hrange

/-! ### Lines (R76, R77) -/

/-- FEED's word is `0x1000` plus its byte: the byte's bits are 0 in `0x1000`. -/
theorem encode_feed_ofNat {n : Nat} (h : n ≤ 255) : encode (.feed (BitVec.ofNat 8 n)) = BitVec.ofNat 16 (0x1000 + n) := by
  have hor : 0x10 <<< 8 ||| n = 0x1000 + n := (Nat.shiftLeft_add_eq_or_of_lt (Nat.lt_succ_of_le h) 0x10).symm
  have hn : n % 2 ^ 8 = n := Nat.mod_eq_of_lt (Nat.lt_succ_of_le h)
  have hfit : (0x1000 + n) % 2 ^ 16 = 0x1000 + n := Nat.mod_eq_of_lt (by omega)
  apply BitVec.eq_of_toNat_eq
  rw [encode_feed_eq_append, BitVec.toNat_append, BitVec.toNat_ofNat, BitVec.toNat_ofNat, BitVec.toNat_ofNat, hn, hfit]
  exact hor

theorem assembleLine_feed_of_ok {n : Nat} {b : Byte} (h : byteOperand n = .ok b) :
    assembleLine (.feed n) = .ok [encode (.feed b)] := by
  simp [assembleLine, h]

theorem assembleLine_feed_of_error {n : Nat} {e : AsmError} (h : byteOperand n = .error e) :
    assembleLine (.feed n) = .error e := by
  simp [assembleLine, h]

theorem assembleLine_feeds_eq_ok_iff {ns : List Nat} {ws : List Word} :
    assembleLine (.feeds ns) = .ok ws ↔ ∃ bs, byteOperands ns = .ok bs ∧ ws = feedsWords bs := by
  rw [assembleLine]
  cases byteOperands ns <;> simp [eq_comm]

theorem assembleLine_feeds_bytes (bs : List Byte) : assembleLine (.feeds (bs.map BitVec.toNat)) = .ok (feedsWords bs) :=
  assembleLine_feeds_eq_ok_iff.2 ⟨bs, byteOperands_eq_ok_iff.2 rfl, rfl⟩

/-- Settles O52. -/
theorem assemblerAcceptsExactlyBytes : Obligations.AssemblerAcceptsExactlyBytes := by
  refine ⟨fun n hn => ?_, fun n hn => assembleLine_feed_of_error (byteOperand_of_gt hn), fun ns => ?_, rfl, rfl, rfl, rfl⟩
  · rw [assembleLine_feed_of_ok (byteOperand_of_le hn), encode_feed_ofNat hn]
  · rw [← exists_byteOperands_eq_ok_iff]
    simp only [assembleLine_feeds_eq_ok_iff]
    exact ⟨fun ⟨_, bs, hbs, _⟩ => ⟨bs, hbs⟩, fun ⟨bs, hbs⟩ => ⟨_, bs, hbs, rfl⟩⟩

/-- Settles O51: a chunk's bytes assemble to their FEED words, which decode by the round trip. -/
theorem feedsExpandsToFeedWords : Obligations.FeedsExpandsToFeedWords := by
  refine ⟨fun bs => ⟨assembleLine_feeds_bytes bs, ?_⟩, fun c1 c2 w1 w2 h1 h2 => ?_, fun cmd bs h => ?_, fun cmd e h => ?_⟩
  · exact List.map_congr_left fun b _ => decode_encode (.feed b)
  · obtain rfl := Except.ok.inj ((assembleLine_feeds_bytes c1).symm.trans h1)
    obtain rfl := Except.ok.inj ((assembleLine_feeds_bytes c2).symm.trans h2)
    rw [assembleLine_feeds_bytes, feedsWords, List.map_append]
    rfl
  · rw [assembleLine_feeds_bytes]
    simp [assembleLine, h]
  · simp [assembleLine, h]

/-! ### The operation of an edge (R78) -/

theorem portOp_of_rst {p : PortIn} (h : p.rst = true) (s : State) : portOp p s = .reset := by
  simp [portOp, h]

theorem portOp_of_full {p : PortIn} {s : State} (hrst : p.rst = false) (hout : s.out ≠ none) :
    portOp p s = if p.outReady then .take else .nop := by
  obtain ⟨m, hm⟩ := Option.ne_none_iff_exists'.1 hout
  simp [portOp, hrst, outValid, inReady, hm]

theorem portOp_of_empty {p : PortIn} {s : State} (hrst : p.rst = false) (hout : s.out = none) :
    portOp p s = if p.inValid then .feed p.inData else .nop := by
  simp [portOp, hrst, outValid, inReady, hout]

theorem enabled_portOp (p : PortIn) (s : State) : enabled (portOp p s) s = true := by
  cases hrst : p.rst with
  | true => rw [portOp_of_rst hrst]; rfl
  | false =>
    by_cases hout : s.out = none
    · rw [portOp_of_empty hrst hout]
      split <;> simp [enabled, hout]
    · rw [portOp_of_full hrst hout]
      split <;> simp [enabled, Option.isSome_iff_ne_none, hout]

theorem exists_exec_eq_next (i : Instr) (s : State) : ∃ t, exec i s = .next t := by
  cases i <;> exact ⟨_, exec_next_iff.2 rfl⟩

theorem inReady_eq_not_outValid (s : State) : inReady s = !outValid s := by
  simp [inReady, outValid]

/-- Settles O53. -/
theorem portEdgePerformsOneEnabledOperation : Obligations.PortEdgePerformsOneEnabledOperation := by
  intro p s
  simp only [clockEdge]
  refine ⟨fun hrst => ?_, fun hrst hout hp => ?_, fun hrst hout hp => ?_, fun hrst hout hp => ?_, fun hrst hout hp => ?_,
    enabled_portOp p s, exists_exec_eq_next _ s, inReady_eq_not_outValid s⟩
  · rw [portOp_of_rst hrst]
  · rw [portOp_of_full hrst hout, hp]; rfl
  · rw [portOp_of_empty hrst hout, hp]; rfl
  · rw [portOp_of_full hrst hout, hp]; rfl
  · rw [portOp_of_empty hrst hout, hp]; rfl

end Sys2Proof.Machine
end

section
/-! FEED and TAKE, case by case, with the whole next state, and the steps that issue an operation which completes or holds
(40_framing.md R101 to R108): O11, O12, O13, O14, O15, O16, O17 and O56. -/

namespace Sys2Proof.Machine

/-! ### The cases of FEED on an empty slot (R102 to R105) -/

section
variable {c : Config} {b : Byte} {s : State}

theorem feedOp_store (hout : s.out = none) (ho : s.ovf = false) (hb : b ≠ c.term) (hl : s.buf.length < c.cap) :
    feedOp c b s = ((s.record (.input b)).bufAppend b).answer .nothing := by
  simp [feedOp, feedCase_store hout ho hb hl]

theorem feedOp_terminate (hout : s.out = none) (ho : s.ovf = false) (hb : b = c.term) :
    feedOp c b s = (((s.record (.input b)).bufDrain).emit (s.buf ++ [c.term])).answer .nothing := by
  simp [feedOp, feedCase_terminate hout ho hb]

theorem feedOp_overflow (hout : s.out = none) (ho : s.ovf = false) (hb : b ≠ c.term) (hl : c.cap ≤ s.buf.length) :
    feedOp c b s = ((s.record (.input b)).raiseOverflow).answer .nothing := by
  simp [feedOp, feedCase_overflow hout ho hb hl]

theorem feedOp_discard (hout : s.out = none) (ho : s.ovf = true) :
    feedOp c b s = (s.record (.input b)).answer .nothing := by
  simp [feedOp, feedCase_discard hout ho]

/-- The cause code depends on FEED's case only (60_exceptions.md R200). -/
theorem causeCode_feed_of_case {k : FeedCase} (h : feedCase c b s = k) :
    causeCode c (.feed b) s = if k = .overflow then 1 else 0 := by
  rw [causeCode, h]

end

/-- Settles O11. -/
theorem feedStoresTheByte : Obligations.FeedStoresTheByte := by
  intro s b hout ho hb hl
  have hcause := causeCode_feed_of_case (feedCase_store hout ho hb hl)
  refine ⟨_, exec_next_iff.2 (feedOp_store hout ho hb hl).symm, rfl, List.length_append, ?_, hcause⟩
  rw [State.logical_eq_accumulating_iff]
  exact ⟨ho, by simp⟩

/-- Settles O12. -/
theorem feedTerminatorEmitsTheMessage : Obligations.FeedTerminatorEmitsTheMessage := by
  intro s hout ho
  have hcause := causeCode_feed_of_case (feedCase_terminate (c := Config.hw) hout ho rfl)
  refine ⟨_, exec_next_iff.2 (feedOp_terminate hout ho rfl).symm, rfl, statusMsgp_statusBits _ _ _, rfl, ?_, hcause⟩
  rw [State.logical_eq_empty_iff]
  exact ⟨ho, rfl⟩

/-- Settles O13. -/
theorem feedOverflowsWhenFull : Obligations.FeedOverflowsWhenFull := by
  intro s b hout ho hb hl
  have hcap : 1 ≤ Config.hw.cap := by decide
  have hcause := causeCode_feed_of_case (feedCase_overflow hout ho hb hl.ge)
  have hbefore : s.logical = .accumulating := s.logical_eq_accumulating_iff.2 ⟨ho, hl ▸ hcap⟩
  have hafter : (feedOp Config.hw b s).logical = .overflowed := by
    rw [State.logical_eq_overflowed_iff, feedOp_overflow hout ho hb hl.ge]
    rfl
  refine ⟨feedOp Config.hw b s, exec_next_iff.2 rfl, ?_, hbefore, hafter, ?_, ?_, hcause⟩
  · simp [feedOp_overflow hout ho hb hl.ge, State.raiseOverflow, State.record, State.answer]
  · rw [statusState_statusWord, hafter]
    rfl
  · rw [statusWord, statusOvf_statusBits, feedOp_overflow hout ho hb hl.ge]
    rfl

/-- The STATUS word with 100 bytes frozen (R105): COUNT `0x64`, OVF 1, MSGP 0, STATE `10`. -/
theorem statusWord_overflowed_full {s : State} (hout : s.out = none) (ho : s.ovf = true) (hl : s.buf.length = 100) :
    statusWord s = 0x640A#16 := by
  rw [statusWord, statusBits, logicalOf, hout, ho, hl]
  decide

/-- Settles O14. -/
theorem feedDiscardsInOverflow : Obligations.FeedDiscardsInOverflow := by
  intro s b hout ho
  have hcause := causeCode_feed_of_case (feedCase_discard (c := Config.hw) (b := b) hout ho)
  exact ⟨_, exec_next_iff.2 (feedOp_discard hout ho).symm, rfl, (State.logical_eq_overflowed_iff _).2 ho, hcause,
    statusWord_overflowed_full hout ho⟩

/-! ### What a step does that issues an operation (10_state.md R21) -/

theorem State.nextWord_of_nextOp_mover {s : State} {i : Instr} (h : s.nextOp s.mover = some i) :
    ∃ w, s.nextWord = some w ∧ decode w = .op i := by
  unfold State.nextOp at h
  split at h
  next => cases h
  next w hw =>
    split at h
    next j hd =>
      cases h
      exact ⟨w, hw, hd⟩
    next => cases h

theorem State.nextOp_congr {s t : State} {a : Agent} (h : t.stream a = s.stream a) : t.nextOp a = s.nextOp a := by
  rw [State.nextOp, State.nextOp, h]

theorem step_of_nextOp {s u : State} {i : Instr} (hi : s.nextOp s.mover = some i) (hu : exec i s.dropTurn = .next u) :
    step s = .next (settle s.mover i s u) := by
  obtain ⟨w, hw, hd⟩ := s.nextWord_of_nextOp_mover hi
  simp [step, State.issue, hw, hd, hu]

theorem step_of_enabled {s u : State} {i : Instr} (hi : s.nextOp s.mover = some i) (he : enabled i s = true)
    (hu : exec i s.dropTurn = .next u) : step s = .next (u.advance s.mover) := by
  rw [step_of_nextOp hi hu, settle, if_pos he]

/-- An operation that holds loses its turn and nothing else (R101, R108). -/
theorem step_of_held {s : State} {i : Instr} (hi : s.nextOp s.mover = some i) (he : enabled i s = false)
    (hu : exec i s.dropTurn = .next s.dropTurn.held) : step s = .next s.dropTurn.held := by
  rw [step_of_nextOp hi hu, settle, if_neg (by simp [he])]

/-! ### FEED's hold and TAKE (R101, R107, R108) -/

theorem enabled_feed_iff (b : Byte) (s : State) : enabled (.feed b) s = true ↔ s.out = none := Option.isNone_iff_eq_none

theorem enabled_take_iff (s : State) : enabled .take s = true ↔ s.out ≠ none := Option.isSome_iff_ne_none

theorem exec_feed_of_full {s : State} (b : Byte) (h : s.out ≠ none) : exec (.feed b) s = .next s.held :=
  exec_next_iff.2 (feedOp_of_out_ne_none h).symm

theorem exec_take_of_empty {s : State} (h : s.out = none) : exec .take s = .next s.held :=
  exec_next_iff.2 (takeOp_of_out_eq_none h).symm

theorem exec_take_of_full {s : State} {m : Message} (h : s.out = some m) :
    exec .take s = .next ((s.clearSlot.record (.msg m)).answer (takeResult m)) :=
  exec_next_iff.2 (by simp [takeOp, h])

theorem step_of_held_feed {s : State} {b : Byte} (h : s.out ≠ none) (hi : s.nextOp s.mover = some (.feed b)) :
    step s = .next s.dropTurn.held :=
  step_of_held hi (by simp [enabled_feed_iff, ← Bool.not_eq_true, h]) (exec_feed_of_full b h)

theorem step_of_held_take {s : State} (h : s.out = none) (hi : s.nextOp s.mover = some .take) :
    step s = .next s.dropTurn.held :=
  step_of_held hi (by simp [enabled_take_iff, ← Bool.not_eq_true, h]) (exec_take_of_empty h)

/-- Settles O15: TAKE and RESET empty the slot, and in OVERFLOWED the invariant has it empty. -/
theorem feedHoldsBehindAFullSlot : Obligations.FeedHoldsBehindAFullSlot := by
  intro s b
  refine ⟨enabled_feed_iff b s, exec_feed_of_full b, step_of_held_feed, fun t h => ?_, fun t h => ?_, fun hs ho => ?_⟩
  · obtain rfl : t = takeOp s := exec_next_iff.1 h
    exact (enabled_feed_iff b _).2 (takeOp_out s)
  · obtain rfl : t = resetOp s := exec_next_iff.1 h
    exact (enabled_feed_iff b _).2 (resetOp_out s)
  · obtain ⟨-, -, hovf⟩ := hs
    obtain ⟨-, hout⟩ := hovf ho
    exact (enabled_feed_iff b s).2 hout

/-- Settles O16: a complete message of this hardware has at most 101 bytes, which its 8-bit length holds. -/
theorem takeDeliversTheMessage : Obligations.TakeDeliversTheMessage := by
  intro s m hout
  refine ⟨(enabled_take_iff s).2 (by simp [hout]), _, exec_take_of_full hout, rfl, ?_, statusMsgp_statusBits _ _ _,
    fun b => (enabled_feed_iff b _).2 rfl, rfl⟩
  rintro ⟨-, hslot, -⟩
  obtain ⟨-, -, hpos, hmax⟩ := hslot m hout
  have hmsgMax : Config.hw.msgMax < 256 := by decide
  rw [BitVec.toNat_ofNat, Nat.mod_eq_of_lt (hmax.trans_lt hmsgMax)]
  exact ⟨rfl, hpos, hmax⟩

/-- Only FEED of the terminator fills an empty slot (R108). -/
theorem exec_fills_slot {i : Instr} {s t : State} (h : exec i s = .next t) (hs : s.out = none) (ht : t.out ≠ none) :
    i = .feed Config.hw.term := by
  have heq := exec_next_iff.1 h
  cases i <;> subst heq
  case feed b =>
    by_contra hb
    have hempty : (feedOp Config.hw b s).out = none := by
      obtain ⟨-, heq⟩ | ⟨-, -, heq⟩ | ⟨-, -, hterm, -⟩ | ⟨-, -, -, -, heq⟩ | ⟨-, -, -, -, heq⟩ :=
        feedOp_cases Config.hw b s
      · rw [heq]; exact hs
      · rw [heq]; exact hs
      · exact absurd (congrArg Instr.feed hterm) hb
      · rw [heq]; exact hs
      · rw [heq]; exact hs
    exact ht hempty
  all_goals simp [hs] at ht

/-- Settles O17. -/
theorem takeHoldsOnAnEmptySlot : Obligations.TakeHoldsOnAnEmptySlot := by
  refine fun s => ⟨enabled_take_iff s, fun hout => ⟨exec_take_of_empty hout, step_of_held_take hout, fun i t h he => ?_,
    fun ho t h => ?_⟩⟩
  · exact exec_fills_slot h hout ((enabled_take_iff t).1 he)
  · obtain rfl : t = feedOp Config.hw Config.hw.term s := exec_next_iff.1 h
    rw [feedOp_terminate hout ho rfl]
    rfl

/-! ### A FEED that holds, the TAKE that lifts its hold, and the FEED again -/

theorem core_run_succ {s u : State} (k : Nat) (h : step s = .next u) : core.run (k + 1) s = core.run k u := by
  have hstep : core.step s = .next u := h
  simp only [Host.Core.run, hstep]

theorem step_of_enabled_take {s : State} {m : Message} (hout : s.out = some m) (hi : s.nextOp s.mover = some .take) :
    ∃ t, step s = .next t ∧ t.out = none ∧ t.trace = s.trace ++ [.msg m] ∧
      t.stream s.mover = (s.stream s.mover).advance := by
  refine ⟨_, step_of_enabled hi ((enabled_take_iff s).2 (by simp [hout])) (exec_take_of_full hout), ?_, ?_, ?_⟩
  · simp
  · simp
  · rw [State.stream_advance_same, exec_stream (exec_take_of_full (s := s.dropTurn) hout), State.stream_dropTurn]

/-- FEED on an empty slot records its byte first (10_state.md R30), whatever its case. -/
theorem step_of_enabled_feed {s : State} {b : Byte} (hout : s.out = none) (hi : s.nextOp s.mover = some (.feed b)) :
    ∃ t, step s = .next t ∧ s.trace ++ [.input b] <+: t.trace ∧ t.stream s.mover = (s.stream s.mover).advance := by
  have hu : exec (.feed b) s.dropTurn = .next (feedOp Config.hw b s.dropTurn) := exec_next_iff.2 rfl
  refine ⟨_, step_of_enabled hi ((enabled_feed_iff b s).2 hout) hu, ?_, ?_⟩
  · simp [feedOp_trace, hout]
  · rw [State.stream_advance_same, exec_stream hu, State.stream_dropTurn]

/-- Settles O56: the first turn is lost to the hold; `v` and `t` are the states after the sink's and the source's next turn. -/
theorem heldFeedCompletesAfterTheTake : Obligations.HeldFeedCompletesAfterTheTake := by
  intro s m b rest hout hsched hfeed htake
  have hms : s.mover = .source := by simp [State.mover, hsched]
  have hu : step s = .next s.dropTurn.held := step_of_held_feed (by simp [hout]) (hms ▸ hfeed)
  have hmu : s.dropTurn.held.mover = .sink := by simp [State.mover, hsched]
  obtain ⟨v, hv, hvout, hvtrace, hvsink⟩ := step_of_enabled_take (s := s.dropTurn.held) hout (hmu ▸ htake)
  have hvsource : v.stream .source = s.source := step_stream_other hv (by simp [hmu])
  have hmv : v.mover = .source := by simp [State.mover, step_sched hv, hsched]
  have hvfeed : v.nextOp v.mover = some (.feed b) := by rw [hmv, State.nextOp_congr hvsource, hfeed]
  obtain ⟨t, ht, httrace, htsource⟩ := step_of_enabled_feed hvout hvfeed
  have htsink : t.stream .sink = v.stream .sink := step_stream_other ht (by simp [hmv])
  rw [hmu] at hvsink
  rw [hmv, hvsource] at htsource
  have hrun : core.run 3 s = .next t := by
    rw [core_run_succ 2 hu, core_run_succ 1 hv, core_run_succ 0 ht]
    rfl
  exact ⟨⟨_, hu, rfl, rfl, rfl, rfl, rfl⟩, t, hrun, congrArg Stream.pos htsource,
    congrArg Stream.pos (htsink.trans hvsink), by simpa [hvtrace] using httrace,
    by simp [step_sched ht, step_sched hv, hsched]⟩

end Sys2Proof.Machine
end

section
/-! The framing function over concatenated chunks, under an eager sink, and against the source's scan (40_framing.md R106, R110;
90_conflicts.md C4): O41, O42 and O44. -/

namespace Sys2Proof.Machine

/-! ### Chunks (R110) -/

theorem frameBytes_cons_discard (c : Config) (buf : List Byte) (b : Byte) (bs : List Byte) :
    frameBytes c buf true (b :: bs) = frameBytes c buf true bs := by
  rw [frameBytes_overflowed, frameBytes_overflowed]

/-- The four cases of the first byte (R102 to R105) that the framing function may meet. -/
theorem firstByte_cases (c : Config) (buf : List Byte) (ovf : Bool) (b : Byte) :
    ovf = true ∨ (ovf = false ∧ b = c.term) ∨ (ovf = false ∧ b ≠ c.term ∧ buf.length < c.cap) ∨
      (ovf = false ∧ b ≠ c.term ∧ c.cap ≤ buf.length) := by
  cases ovf
  · by_cases hb : b = c.term
    · exact .inr (.inl ⟨rfl, hb⟩)
    · obtain hl | hl := Nat.lt_or_ge buf.length c.cap
      · exact .inr (.inr (.inl ⟨rfl, hb, hl⟩))
      · exact .inr (.inr (.inr ⟨rfl, hb, hl⟩))
  · exact .inl rfl

/-- Two framings one after the other: the second's buffer and flag, both messages, either Overflow (R110). -/
def Framed.andThen (r q : Framed) : Framed :=
  { buf := q.buf, ovf := q.ovf, msgs := r.msgs ++ q.msgs, overflowed := r.overflowed || q.overflowed }

theorem frameBytes_append (c : Config) (buf : List Byte) (ovf : Bool) (bs cs : List Byte) :
    frameBytes c buf ovf (bs ++ cs) =
      (frameBytes c buf ovf bs).andThen (frameBytes c (frameBytes c buf ovf bs).buf (frameBytes c buf ovf bs).ovf cs) := by
  induction bs generalizing buf ovf with
  | nil => rfl
  | cons b bs ih =>
    rw [List.cons_append]
    obtain rfl | ⟨rfl, hb⟩ | ⟨rfl, hb, hl⟩ | ⟨rfl, hb, hl⟩ := firstByte_cases c buf ovf b
    · rw [frameBytes_cons_discard, frameBytes_cons_discard, ih]
    · rw [frameBytes_cons_term hb, frameBytes_cons_term hb, ih]
      rfl
    · rw [frameBytes_cons_store hb hl, frameBytes_cons_store hb hl, ih]
    · rw [frameBytes_cons_overflow hb hl, frameBytes_cons_overflow hb hl, frameBytes_overflowed]
      rfl

/-- How many Overflow events a framing stands for. -/
def Framed.overflowCount (r : Framed) : Nat := if r.overflowed = true then 1 else 0

/-- After an Overflow event the flag stands to the end of the sequence (10_state.md R26), so that a second cannot occur. -/
theorem frameBytes_ovf_of_overflowed {c : Config} {buf : List Byte} {ovf : Bool} {bs : List Byte}
    (h : (frameBytes c buf ovf bs).overflowed = true) : (frameBytes c buf ovf bs).ovf = true := by
  induction bs generalizing buf ovf with
  | nil => simp [frameBytes] at h
  | cons b bs ih =>
    obtain rfl | ⟨rfl, hb⟩ | ⟨rfl, hb, hl⟩ | ⟨rfl, hb, hl⟩ := firstByte_cases c buf ovf b
    · rw [frameBytes_overflowed]
    · rw [frameBytes_cons_term hb] at h ⊢
      exact ih h
    · rw [frameBytes_cons_store hb hl] at h ⊢
      exact ih h
    · rw [frameBytes_cons_overflow hb hl]

theorem frameBytes_append_overflowCount (c : Config) (buf : List Byte) (ovf : Bool) (bs cs : List Byte) :
    (frameBytes c buf ovf (bs ++ cs)).overflowCount =
      (frameBytes c buf ovf bs).overflowCount +
        (frameBytes c (frameBytes c buf ovf bs).buf (frameBytes c buf ovf bs).ovf cs).overflowCount := by
  rw [frameBytes_append, Framed.andThen]
  cases he : (frameBytes c buf ovf bs).overflowed
  · simp [Framed.overflowCount, he]
  · simp [Framed.overflowCount, he, frameBytes_ovf_of_overflowed he, frameBytes_overflowed]

/-! ### The block under an eager sink (R110) -/

/-- `t` is what the framing function makes of `s` and the bytes `bs`: its buffer and flag, the slot empty, its messages delivered,
its Overflow recorded, and the host around the block as it was. -/
structure Frames (c : Config) (s : State) (bs : List Byte) (t : State) : Prop where
  buf : t.buf = (frameBytes c s.buf s.ovf bs).buf
  ovf : t.ovf = (frameBytes c s.buf s.ovf bs).ovf
  out : t.out = none
  delivered : delivered t.trace = delivered s.trace ++ (frameBytes c s.buf s.ovf bs).msgs
  overflows : overflows t.trace = overflows s.trace + (frameBytes c s.buf s.ovf bs).overflowCount
  sched : t.sched = s.sched
  stream : ∀ a, t.stream a = s.stream a

theorem Frames.nil (c : Config) {s : State} (h : s.out = none) : Frames c s [] s :=
  ⟨rfl, rfl, h, (List.append_nil _).symm, rfl, rfl, fun _ => rfl⟩

theorem Frames.append {c : Config} {s t u : State} {bs cs : List Byte} (h : Frames c s bs t) (k : Frames c t cs u) :
    Frames c s (bs ++ cs) u := by
  obtain ⟨hbuf, hovf, -, hdel, hover, hsched, hstream⟩ := h
  obtain ⟨kbuf, kovf, kout, kdel, kover, ksched, kstream⟩ := k
  rw [hbuf, hovf] at kbuf kovf kdel kover
  rw [hdel, List.append_assoc] at kdel
  refine ⟨?_, ?_, kout, ?_, ?_, ksched.trans hsched, fun a => (kstream a).trans (hstream a)⟩
  · rw [frameBytes_append]; exact kbuf
  · rw [frameBytes_append]; exact kovf
  · rw [frameBytes_append]; exact kdel
  · rw [frameBytes_append_overflowCount, kover, hover, Nat.add_assoc]

theorem eagerByte_host (c : Config) (s : State) (b : Byte) :
    (eagerByte c s b).sched = s.sched ∧ ∀ a, (eagerByte c s b).stream a = s.stream a := by
  obtain ⟨hsched, hstreams⟩ := feedOp_host c b s
  obtain ⟨ksched, kstreams⟩ := takeOp_host (feedOp c b s)
  simp only [eagerByte]
  split
  · exact ⟨ksched.trans hsched, fun a => (State.stream_congr kstreams a).trans (State.stream_congr hstreams a)⟩
  · exact ⟨hsched, State.stream_congr hstreams⟩

/-- One byte under an eager sink: as `Frames` says it, from the events the byte adds to the history. -/
theorem eagerByte_frames_of_events {c : Config} {s : State} {b : Byte} {es : List Event} {r : Framed}
    (hr : frameBytes c s.buf s.ovf [b] = r) (hbuf : (eagerByte c s b).buf = r.buf) (hovf : (eagerByte c s b).ovf = r.ovf)
    (hout : (eagerByte c s b).out = none) (htrace : (eagerByte c s b).trace = s.trace ++ es) (hmsgs : delivered es = r.msgs)
    (hover : overflows es = r.overflowCount) : Frames c s [b] (eagerByte c s b) := by
  subst hr
  obtain ⟨hsched, hstream⟩ := eagerByte_host c s b
  exact ⟨hbuf, hovf, hout, by rw [htrace, delivered_append, hmsgs], by rw [htrace, overflows_append, hover], hsched, hstream⟩

theorem eagerByte_frames (c : Config) {s : State} (b : Byte) (hout : s.out = none) : Frames c s [b] (eagerByte c s b) := by
  obtain ho | ⟨ho, hb⟩ | ⟨ho, hb, hl⟩ | ⟨ho, hb, hl⟩ := firstByte_cases c s.buf s.ovf b
  · have he : eagerByte c s b = (s.record (.input b)).answer .nothing := by simp [eagerByte, feedOp_discard hout ho, hout]
    refine eagerByte_frames_of_events (es := [.input b]) (by rw [ho, frameBytes_overflowed]) ?_ ?_ ?_ ?_ rfl rfl <;>
      simp [he, ho, hout]
  · have he : eagerByte c s b = takeOp (feedOp c b s) := by simp [eagerByte, feedOp_terminate hout ho hb]
    refine eagerByte_frames_of_events (es := [.input b, .msg (s.buf ++ [c.term])]) (by rw [ho, frameBytes_cons_term hb])
      ?_ ?_ ?_ ?_ rfl rfl <;>
      simp [he, takeOp_trace, feedOp_terminate hout ho hb, ho, frameBytes]
  · have he : eagerByte c s b = ((s.record (.input b)).bufAppend b).answer .nothing := by
      simp [eagerByte, feedOp_store hout ho hb hl, hout]
    refine eagerByte_frames_of_events (es := [.input b]) (by rw [ho, frameBytes_cons_store hb hl]) ?_ ?_ ?_ ?_ rfl rfl <;>
      simp [he, ho, hout, frameBytes]
  · have he : eagerByte c s b = ((s.record (.input b)).raiseOverflow).answer .nothing := by
      simp [eagerByte, feedOp_overflow hout ho hb hl, hout]
    refine eagerByte_frames_of_events (es := [.input b, .overflow]) (by rw [ho, frameBytes_cons_overflow hb hl])
      ?_ ?_ ?_ ?_ rfl rfl <;>
      simp [he, hout]

theorem eagerFeed_frames (c : Config) {s : State} (bs : List Byte) (hout : s.out = none) : Frames c s bs (eagerFeed c s bs) := by
  induction bs generalizing s with
  | nil => exact Frames.nil c hout
  | cons b bs ih =>
    have hb := eagerByte_frames c b hout
    exact hb.append (ih hb.out)

/-- Settles O42. -/
theorem eagerSinkRunsTheFramingFunction : Obligations.EagerSinkRunsTheFramingFunction := by
  intro c s bs hout
  obtain ⟨hbuf, hovf, hout', hdel, hover, hsched, hstream⟩ := eagerFeed_frames c bs hout
  exact ⟨hbuf, hovf, hout', hdel, hover, hsched, hstream⟩

/-- Settles O41: R110's cases, and one induction over the first chunk. -/
theorem framingFunctionIsChunkInvariant : Obligations.FramingFunctionIsChunkInvariant := by
  refine ⟨fun _ _ _ => rfl, fun c buf bs b => ⟨frameBytes_cons_discard c buf b bs, fun hb _ _ _ _ h => ?_,
    fun hb hl => frameBytes_cons_store hb hl bs, fun hb hl _ _ _ _ h => ?_⟩, frameBytes_append, fun c s bs hout => ?_⟩
  · rw [frameBytes_cons_term hb, h]
  · rw [frameBytes_overflowed] at h
    cases h
    rw [frameBytes_cons_overflow hb hl]
  · have h := eagerFeed_frames c bs hout
    exact ⟨h.buf, h.ovf⟩

/-! ### The source's scan (R106) -/

theorem scanMessages_append {c : Config} (acc : List Byte) {bs : List Byte} (h : ∀ b ∈ bs, b ≠ c.term) (cs : List Byte) :
    scanMessages c acc (bs ++ cs) = scanMessages c (acc ++ bs) cs := by
  induction bs generalizing acc with
  | nil => simp
  | cons b bs ih =>
    obtain ⟨hb, hbs⟩ := List.forall_mem_cons.1 h
    rw [List.cons_append, scanMessages, if_neg hb, ih _ hbs, List.append_assoc, List.singleton_append]

theorem le_cap_of_runsWithin {c : Config} {n : Nat} {bs : List Byte} (h : runsWithin c n bs = true) : n ≤ c.cap := by
  induction bs generalizing n with
  | nil => exact of_decide_eq_true h
  | cons b bs ih =>
    by_cases hb : b = c.term
    · simp only [runsWithin, if_pos hb, Bool.and_eq_true, decide_eq_true_eq] at h
      exact h.1
    · rw [runsWithin, if_neg hb] at h
      exact Nat.le_of_succ_le (ih h)

/-- Within the run bound every byte that does not terminate has room (R102). -/
theorem frameBytes_eq_scanMessages {c : Config} {buf chunk : List Byte} (h : runsWithin c buf.length chunk = true) :
    frameBytes c buf false chunk =
      { buf := (scanMessages c buf chunk).2, ovf := false, msgs := (scanMessages c buf chunk).1, overflowed := false } := by
  induction chunk generalizing buf with
  | nil => rfl
  | cons b bs ih =>
    by_cases hb : b = c.term
    · simp only [runsWithin, if_pos hb, Bool.and_eq_true] at h
      obtain ⟨-, hrest⟩ := h
      rw [frameBytes_cons_term hb, ih (buf := []) hrest, scanMessages, if_pos hb, hb]
    · rw [runsWithin, if_neg hb] at h
      have hroom : buf.length < c.cap := le_cap_of_runsWithin h
      rw [frameBytes_cons_store hb hroom, ih (by rwa [List.length_append]), scanMessages, if_neg hb]

/-- Settles O44: the scan passes over the pending bytes, and from there goes with the framing function. -/
theorem framingAgreesWithTheSourceScan : Obligations.FramingAgreesWithTheSourceScan := by
  intro c buf chunk hbuf hruns
  rw [sourceFeed, scanMessages_append [] hbuf, List.nil_append]
  exact frameBytes_eq_scanMessages hruns

end Sys2Proof.Machine
end

section
/-! The delivery contract (40_framing.md R109): what the history's reader may read next, the invariant of what it knows, and from
these O40. -/

namespace Sys2Proof.Machine

/-! ### The one inversion of the reader -/

/-- The cases of reading one event (10_state.md R30): FEED's four (R102 to R105), the Overflow that is due, TAKE, RESET, STATUS. -/
inductive Replay.Reads (c : Config) (r : Replay) : Event → Replay → Prop where
  | discard (b : Byte) (hd : r.due = false) (hout : r.out = none) (ho : r.ovf = true) : Reads c r (.input b) r
  | terminate (b : Byte) (hd : r.due = false) (hout : r.out = none) (ho : r.ovf = false) (hb : b = c.term) :
    Reads c r (.input b) { r with buf := [], out := some (r.buf ++ [c.term]) }
  | store (b : Byte) (hd : r.due = false) (hout : r.out = none) (ho : r.ovf = false) (hb : b ≠ c.term)
    (hl : r.buf.length < c.cap) : Reads c r (.input b) { r with buf := r.buf ++ [b] }
  | full (b : Byte) (hd : r.due = false) (hout : r.out = none) (ho : r.ovf = false) (hb : b ≠ c.term)
    (hl : c.cap ≤ r.buf.length) : Reads c r (.input b) { r with due := true }
  | overflow (hd : r.due = true) : Reads c r .overflow { r with ovf := true, due := false }
  | msg (m : Message) (hd : r.due = false) (hout : r.out = some m) : Reads c r (.msg m) { r with out := none }
  | reset (hd : r.due = false) : Reads c r .reset Replay.init
  | status (w : Word) (hd : r.due = false) : Reads c r (.status w) r

theorem Replay.reads_of_read {c : Config} {r q : Replay} {e : Event} (h : r.read c e = some q) : r.Reads c e q := by
  cases e with
  | input b =>
    have hready : r.due = false ∧ r.out = none := by
      cases hd : r.due <;> cases hout : r.out <;> simp [Replay.read, hd, hout] at h ⊢
    obtain ⟨hd, hout⟩ := hready
    obtain ho | ⟨ho, hb⟩ | ⟨ho, hb, hl⟩ | ⟨ho, hb, hl⟩ := firstByte_cases c r.buf r.ovf b
    · cases (Replay.read_input_discard hd hout ho).symm.trans h
      exact .discard b hd hout ho
    · cases (Replay.read_input_terminate hd hout ho hb).symm.trans h
      exact .terminate b hd hout ho hb
    · cases (Replay.read_input_store hd hout ho hb hl).symm.trans h
      exact .store b hd hout ho hb hl
    · cases (Replay.read_input_overflow hd hout ho hb hl).symm.trans h
      exact .full b hd hout ho hb hl
  | overflow =>
    have hd : r.due = true := by
      by_contra hd
      simp [Replay.read, hd] at h
    cases (Replay.read_overflow hd).symm.trans h
    exact .overflow hd
  | msg m =>
    simp only [Replay.read, Option.ite_none_right_eq_some, Bool.and_eq_true, Bool.not_eq_true', decide_eq_true_eq,
      Option.some.injEq] at h
    obtain ⟨⟨hd, hout⟩, rfl⟩ := h
    exact .msg m hd hout
  | reset =>
    simp only [Replay.read, Option.ite_none_left_eq_some, Bool.not_eq_true, Option.some.injEq] at h
    obtain ⟨hd, rfl⟩ := h
    exact .reset hd
  | status w =>
    simp only [Replay.read, Option.ite_none_right_eq_some, Bool.and_eq_true, Bool.not_eq_true', Option.some.injEq] at h
    obtain ⟨⟨hd, -⟩, rfl⟩ := h
    exact .status w hd

theorem Replay.readAll_append_eq_some {c : Config} {r q : Replay} {es fs : List Event} :
    r.readAll c (es ++ fs) = some q ↔ ∃ p, r.readAll c es = some p ∧ p.readAll c fs = some q := by
  rw [Replay.readAll_append, Option.bind_eq_some_iff]

/-- An induction over a history that reads: what the reader's knowledge has at the start and every read keeps, it has at the end. -/
theorem Replay.readAll_keeps {c : Config} {P : Replay → Prop} {es : List Event}
    (hread : ∀ r e q, e ∈ es → P r → r.Reads c e q → P q) {r q : Replay} (hr : P r) (h : r.readAll c es = some q) : P q := by
  induction es generalizing r with
  | nil =>
    cases h
    exact hr
  | cons e es ih =>
    obtain ⟨p, hp, hq⟩ := Replay.readAll_cons_eq_some.1 h
    exact ih (fun r e' q he => hread r e' q (List.mem_cons_of_mem _ he))
      (hread r e p List.mem_cons_self hr (Replay.reads_of_read hp)) hq

/-! ### The invariant of what the reader knows -/

/-- A block with the fields that the reader knows. -/
def Replay.toState (r : Replay) : State := { State.reset with buf := r.buf, ovf := r.ovf, out := r.out }

/-- The reader knows the fields of a block that meets its invariant; where an Overflow is due, the buffer is full and the slot
empty, as FEED's overflow case has it (R104). -/
def Replay.Wf (c : Config) (r : Replay) : Prop :=
  BlockInv c r.toState ∧ (r.due = true → r.out = none ∧ c.cap ≤ r.buf.length)

theorem Replay.init_wf (c : Config) : Replay.init.Wf c := ⟨State.reset_blockInv c, by simp [Replay.init]⟩

theorem Replay.Reads.wf {c : Config} {r q : Replay} {e : Event} (h : r.Reads c e q) (hr : r.Wf c) : q.Wf c := by
  obtain ⟨hinv, hdue⟩ := hr
  cases h with
  | discard b hd hout ho => exact ⟨hinv, hdue⟩
  | terminate b hd hout ho hb => exact ⟨State.bufDrain_emit_blockInv hinv ho, by simp [hd]⟩
  | store b hd hout ho hb hl => exact ⟨State.bufAppend_blockInv hinv ho hb hl, by simp [hd]⟩
  | full b hd hout ho hb hl => exact ⟨hinv, fun _ => ⟨hout, hl⟩⟩
  | overflow hd =>
    obtain ⟨hout, hl⟩ := hdue hd
    exact ⟨State.raiseOverflow_blockInv hinv hout hl, by simp⟩
  | msg m hd hout => exact ⟨State.clearSlot_blockInv hinv, by simp [hd]⟩
  | reset hd => exact Replay.init_wf c
  | status w hd => exact ⟨hinv, hdue⟩

theorem Replay.readAll_wf {c : Config} {r q : Replay} {es : List Event} (hr : r.Wf c) (h : r.readAll c es = some q) : q.Wf c :=
  Replay.readAll_keeps (fun _ _ _ _ hr h => h.wf hr) hr h

theorem Replay.readAll_ovf {c : Config} {r q : Replay} {es : List Event} (hes : .reset ∉ es) (hr : r.ovf = true)
    (h : r.readAll c es = some q) : q.ovf = true := by
  refine Replay.readAll_keeps (P := (·.ovf = true)) (fun r e q he hr h => ?_) hr h
  cases h
  case reset => exact absurd he hes
  case overflow => rfl
  all_goals exact hr

/-- A message is delivered only from the slot (R107). -/
theorem Replay.out_of_readAll_msg {c : Config} {r q : Replay} {m : Message} {es : List Event}
    (h : r.readAll c (.msg m :: es) = some q) : r.out = some m := by
  obtain ⟨p, hp, -⟩ := Replay.readAll_cons_eq_some.1 h
  cases Replay.reads_of_read hp with
  | msg _ _ hout => exact hout

/-- An Overflow event leads the reader to OVERFLOWED. -/
theorem Replay.ovf_of_read_overflow {c : Config} {r q : Replay} (h : r.read c .overflow = some q) : q.ovf = true := by
  cases Replay.reads_of_read h with
  | overflow _ => rfl

/-! ### Messages delivered, formed and surviving -/

@[simp] theorem delivered_nil : delivered [] = [] := rfl
@[simp] theorem delivered_input (b : Byte) (es : List Event) : delivered (.input b :: es) = delivered es := rfl
@[simp] theorem delivered_overflow (es : List Event) : delivered (.overflow :: es) = delivered es := rfl
@[simp] theorem delivered_msg (m : Message) (es : List Event) : delivered (.msg m :: es) = m :: delivered es := rfl
@[simp] theorem delivered_reset (es : List Event) : delivered (.reset :: es) = delivered es := rfl
@[simp] theorem delivered_status (w : Word) (es : List Event) : delivered (.status w :: es) = delivered es := rfl

/-- What is delivered stood in the slot before or is formed later. -/
theorem delivered_sublist_formed {c : Config} {r q : Replay} {es : List Event} (h : r.readAll c es = some q) :
    (delivered es).Sublist (r.out.toList ++ formed c r es) := by
  induction es generalizing r with
  | nil => exact List.nil_sublist _
  | cons e es ih =>
    obtain ⟨p, hp, hq⟩ := Replay.readAll_cons_eq_some.1 h
    have hrest := ih hq
    cases Replay.reads_of_read hp with
    | discard b hd hout ho => simpa [formed, hp, ho] using hrest
    | terminate b hd hout ho hb =>
      subst hb
      simpa [formed, hp, ho, hout] using hrest
    | store b hd hout ho hb hl => simpa [formed, hp, hb] using hrest
    | full b hd hout ho hb hl => simpa [formed, hp, hb] using hrest
    | overflow hd => simpa [formed, hp] using hrest
    | msg m hd hout => simpa [formed, hp, hout] using hrest
    | reset hd =>
      have hformed : (delivered es).Sublist (formed c Replay.init es) := hrest
      simpa [formed, hp] using hformed.trans (List.sublist_append_right r.out.toList _)
    | status w hd => simpa [formed, hp] using hrest

/-- With the messages before it given as `ms` and the one in the slot, a history leaves those before it, those it delivers and the
one then in the slot: a RESET discards the one in the slot, and TAKE moves it to the delivered ones. -/
theorem surviving_eq {c : Config} {r q : Replay} {es : List Event} (h : r.readAll c es = some q) (ms : List Message) :
    surviving c r (ms ++ r.out.toList) es = ms ++ delivered es ++ q.out.toList := by
  induction es generalizing r ms with
  | nil =>
    cases h
    simp [surviving]
  | cons e es ih =>
    obtain ⟨p, hp, hq⟩ := Replay.readAll_cons_eq_some.1 h
    have hrest := ih hq
    cases Replay.reads_of_read hp with
    | discard b hd hout ho => simpa [surviving, hp, ho] using hrest ms
    | terminate b hd hout ho hb =>
      subst hb
      simpa [surviving, hp, ho, hout] using hrest ms
    | store b hd hout ho hb hl => simpa [surviving, hp, hb] using hrest ms
    | full b hd hout ho hb hl => simpa [surviving, hp, hb] using hrest ms
    | overflow hd => simpa [surviving, hp] using hrest ms
    | msg m hd hout => simpa [surviving, hp, hout] using hrest (ms ++ [m])
    | reset hd =>
      have hacc : (if r.out.isSome then (ms ++ r.out.toList).dropLast else ms ++ r.out.toList) = ms := by
        cases r.out <;> simp
      simpa [surviving, hp, hacc, Replay.init] using hrest ms
    | status w hd => simpa [surviving, hp] using hrest ms

/-- Settles O40: a message is delivered from a slot that holds a complete one, and after an Overflow the slot stays empty until a
RESET. -/
theorem notificationContract : Obligations.NotificationContract := by
  intro c s h
  refine ⟨fun m hm => ?_, delivered_sublist_formed h, surviving_eq h [], fun pre mid post m htrace => ?_⟩
  · obtain ⟨pre, post, htrace⟩ := List.append_of_mem hm
    rw [TraceInv, htrace] at h
    obtain ⟨r, hr, h⟩ := Replay.readAll_append_eq_some.1 h
    obtain ⟨⟨-, hslot, -⟩, -⟩ := Replay.readAll_wf (Replay.init_wf c) hr
    exact hslot m (Replay.out_of_readAll_msg h)
  · rw [TraceInv, htrace] at h
    obtain ⟨r, hr, h⟩ := Replay.readAll_append_eq_some.1 h
    obtain ⟨p, hp, h⟩ := Replay.readAll_cons_eq_some.1 h
    obtain ⟨q, hq, h⟩ := Replay.readAll_append_eq_some.1 h
    by_contra hmid
    have hovf : q.ovf = true := Replay.readAll_ovf hmid (Replay.ovf_of_read_overflow hp) hq
    have hp_wf : p.Wf c := (Replay.reads_of_read hp).wf (Replay.readAll_wf (Replay.init_wf c) hr)
    obtain ⟨⟨-, -, hempty⟩, -⟩ := Replay.readAll_wf hp_wf hq
    obtain ⟨-, hout⟩ := hempty hovf
    cases hout.symm.trans (Replay.out_of_readAll_msg h)

end Sys2Proof.Machine
end

section
/-! The control family (41_control.md): RESET, STATUS in both its forms and NOP, with the whole next state, the idle turn and the
cycle in which the status port is sampled: O19, O59, O8, O18 and O20. -/

namespace Sys2Proof.Machine

/-! ### The STATUS word, field by field (R132) -/

theorem stateCode_logicalOf (buf : List Byte) (ovf : Bool) :
    stateCode (logicalOf buf ovf) = if ovf = true then 0b10#2 else if buf.length = 0 then 0b00#2 else 0b01#2 := by
  rw [logicalOf, apply_ite stateCode, apply_ite stateCode]
  rfl

/-- In OVERFLOWED with an empty slot: COUNT above the fixed low byte, OVF 1, MSGP 0 and STATE `10`. -/
theorem statusBits_overflowed (buf : List Byte) :
    statusBits buf true none = (BitVec.ofNat 16 buf.length <<< 8) ||| 0x000A#16 := by
  apply BitVec.eq_of_getLsbD_eq
  intro i hi
  rw [BitVec.getLsbD_or, BitVec.getLsbD_shiftLeft, BitVec.getLsbD_ofNat]
  by_cases hlow : i < 8
  · have hbyte : ∀ j < 8, (statusBits [] true none).getLsbD j = (0x000A#16).getLsbD j := by decide
    rw [← hbyte i hlow, getLsbD_statusBits, getLsbD_statusBits]
    simp [hlow, logicalOf]
  · have hzero : ∀ j < 16, ¬ j < 8 → (0x000A#16).getLsbD j = false := by decide
    rw [hzero i hi hlow, getLsbD_statusBits, if_neg (by omega), if_neg (by omega), if_neg (by omega), if_neg hlow,
      BitVec.getLsbD_ofNat]
    have h8 : i - 8 < 8 := by omega
    simp [hlow, hi, h8, Nat.lt_trans h8]

/-- Settles O19: the fields as Laws/Ops.lean reads them; in OVERFLOWED the invariant has CAP bytes frozen and the slot empty. -/
theorem statusReturnsTheWord : Obligations.StatusReturnsTheWord := by
  refine ⟨decode_encode .status, fun s => ⟨rfl, rfl, statusOp s, statusWord s, execStatus_eq s, sampleStatus_eq s, rfl, rfl,
    statusCount_statusBits _ _ _, statusReserved_statusBits _ _ _, statusOvf_statusBits _ _ _, statusMsgp_statusBits _ _ _,
    ?_, ?_⟩, fun c s _ hs ho => ?_, by decide⟩
  · exact (statusState_statusBits _ _ _).trans (stateCode_logicalOf _ _)
  · exact (statusState_statusWord s).trans_ne (stateCode_ne_three _)
  · obtain ⟨-, -, hovf⟩ := hs
    obtain ⟨hfull, hout⟩ := hovf ho
    rw [statusWord, ho, hout, statusBits_overflowed, hfull]

/-! ### Sampling the status port (R132, 30_encoding.md R78) -/

/-- The state with another history and another answer to the host. -/
def State.withHistory (s : State) (tr : List Event) (r : Result) : State := { s with trace := tr, result := r }

theorem State.withHistory_self (s : State) : s.withHistory s.trace s.result = s := rfl

theorem statusOp_eq_withHistory (s : State) :
    statusOp s = s.withHistory (s.trace ++ [.status (statusWord s)]) (.status (statusWord s)) := rfl

/-- FEED reads neither the history nor the last answer: it appends the same events to any history. -/
theorem feedOp_withHistory (c : Config) (b : Byte) (s : State) :
    ∃ (v : State) (es : List Event), ∀ tr r, feedOp c b (s.withHistory tr r) = v.withHistory (tr ++ es) v.result := by
  have hcase (tr : List Event) (r : Result) : feedCase c b (s.withHistory tr r) = feedCase c b s := rfl
  simp only [feedOp, hcase]
  cases feedCase c b s with
  | hold => exact ⟨s.held, [], fun tr _ => by rw [List.append_nil]; rfl⟩
  | discard => exact ⟨s.held, [.input b], fun _ _ => rfl⟩
  | terminate => exact ⟨(s.bufDrain.emit (s.buf ++ [c.term])).held, [.input b], fun _ _ => rfl⟩
  | store => exact ⟨(s.bufAppend b).held, [.input b], fun _ _ => rfl⟩
  | overflow =>
    refine ⟨s.raiseOverflow.held, [.input b, .overflow], fun tr _ => ?_⟩
    exact congrArg (s.raiseOverflow.held.withHistory · .nothing) (List.append_assoc tr [.input b] [.overflow])

theorem takeOp_withHistory (s : State) :
    ∃ (v : State) (es : List Event), ∀ tr r, takeOp (s.withHistory tr r) = v.withHistory (tr ++ es) v.result := by
  have hout (tr : List Event) (r : Result) : (s.withHistory tr r).out = s.out := rfl
  simp only [takeOp, hout]
  cases s.out with
  | none => exact ⟨s.held, [], fun tr _ => by rw [List.append_nil]; rfl⟩
  | some m => exact ⟨s.clearSlot.answer (takeResult m), [.msg m], fun _ _ => rfl⟩

/-- As `feedOp_withHistory`, for every operation of this hardware. -/
theorem exec_withHistory (i : Instr) (s : State) :
    ∃ (v : State) (es : List Event), ∀ tr r, exec i (s.withHistory tr r) = .next (v.withHistory (tr ++ es) v.result) := by
  simp only [exec_next_iff]
  cases i with
  | nop => exact ⟨s.held, [], fun tr _ => by rw [List.append_nil]; rfl⟩
  | feed b =>
    obtain ⟨v, es, hv⟩ := feedOp_withHistory Config.hw b s
    exact ⟨v, es, fun tr r => (hv tr r).symm⟩
  | take =>
    obtain ⟨v, es, hv⟩ := takeOp_withHistory s
    exact ⟨v, es, fun tr r => (hv tr r).symm⟩
  | reset => exact ⟨resetOp s, [.reset], fun _ _ => rfl⟩
  | status => exact ⟨statusOp s, [.status (statusWord s)], fun _ _ => rfl⟩

/-- Settles O59: the edge's operation on what STATUS left differs in the history only. -/
theorem sampledStatusIsAStatusOperation : Obligations.SampledStatusIsAStatusOperation := by
  intro p s
  simp only [clockCycle_unsampled, clockCycle_sampled, clockEdge, portOp_statusOp]
  refine ⟨?_, fun u hu => ⟨fun hs => exec_blockInv (statusOp_blockInv hs) hu,
    fun hs => exec_traceInv (statusOp_traceInv hs) hu⟩⟩
  obtain ⟨v, es, hexec⟩ := exec_withHistory (portOp p s) s
  have hedge := hexec s.trace s.result
  rw [State.withHistory_self] at hedge
  have hsampled := hexec (s.trace ++ [.status (statusWord s)]) (.status (statusWord s))
  rw [← statusOp_eq_withHistory, ← List.append_cons] at hsampled
  exact ⟨_, _, es, hedge, hedge, hsampled, rfl, rfl, rfl, rfl, rfl, fun _ => rfl, rfl, rfl⟩

/-! ### The idle turn, RESET and NOP (R131, R133) -/

theorem step_of_no_word {s : State} (h : s.nextWord = none) : step s = .next s.idle := by
  simp [step, h]

/-- Settles O8: the idle turn is NOP's effect once the turn is used up. -/
theorem turnWithoutWordIsIdle : Obligations.TurnWithoutWordIsIdle := fun _ => step_of_no_word

/-- Settles O18. -/
theorem resetClearsTheBlock : Obligations.ResetClearsTheBlock := by
  refine fun s => ⟨rfl, rfl, resetOp s, exec_next_iff.2 rfl, rfl, statusWord_resetOp s, rfl, ?_, ?_⟩
  · exact ⟨resetOp (resetOp s), exec_next_iff.2 rfl, rfl, rfl, rfl⟩
  · exact fun i v hs h hv => exec_ovf_falls h hs hv

/-- NOP changes only the answer, which no enabling condition reads. -/
theorem enabled_nopOp (i : Instr) (s : State) : enabled i (nopOp s) = enabled i s := by cases i <;> rfl

/-- Settles O20. -/
theorem nopChangesNothing : Obligations.NopChangesNothing := fun s =>
  ⟨rfl, rfl, exec_next_iff.2 rfl, fun i => enabled_nopOp i s, by decide⟩

end Sys2Proof.Machine
end

section
/-! The command frames (45_frame_formats.md): what the builder answers, the form every frame shares, the layouts, and the round
trip through the framing function and the block: O50, O46, O47, O48 and O49. -/

namespace Sys2Proof.Machine

/-! ### What the builder answers (R150, R152, R163) -/

/-- `buildFrame_ok_iff` with the domains written as R151's bounds. -/
theorem buildFrame_ok_iff_bounds {cmd : Command} {bs : List Byte} :
    buildFrame cmd = .ok bs ↔
      refusedKindOf cmd = none ∧ (∀ fv ∈ commandFields cmd, fieldLo fv.1 ≤ fv.2 ∧ fv.2 ≤ fieldHi fv.1) ∧
        bs = commandBytes cmd := by
  simp only [buildFrame_ok_iff, firstOutside_eq_none_iff, inDomain_iff]

/-- The field reported is the first outside its domain (R152). -/
theorem firstOutside_eq_some_iff {fs : List (Field × Nat)} {f : Field} {v : Nat} :
    firstOutside fs = some (f, v) ↔
      ∃ pre post, fs = pre ++ (f, v) :: post ∧ (∀ fv ∈ pre, inDomain fv.1 fv.2 = true) ∧ inDomain f v = false := by
  simp only [firstOutside, List.find?_eq_some_iff_append, Bool.not_eq_true', Bool.not_not, and_comm (a := inDomain f v = false),
    ← exists_and_right, and_assoc]

theorem buildFrame_rangeError_iff {cmd : Command} (hk : refusedKindOf cmd = none) {f : Field} {v lo hi : Nat} :
    buildFrame cmd = .error (.rangeError f v lo hi) ↔
      firstOutside (commandFields cmd) = some (f, v) ∧ lo = fieldLo f ∧ hi = fieldHi f := by
  rw [buildFrame, hk]
  cases firstOutside (commandFields cmd) with
  | none => simp
  | some fv =>
    simp only [Except.error.injEq, FrameError.rangeError.injEq, Option.some.injEq, Prod.ext_iff]
    grind

/-! ### The bytes that carry an argument (R153, R159) -/

/-- The OR of a high nibble and a value below 16 cannot carry. -/
theorem ofNat_highNibble_or (n : Nat) {v : Nat} (hv : v < 16) :
    BitVec.ofNat 8 (16 * n) ||| BitVec.ofNat 8 v = BitVec.ofNat 8 (16 * n + v) := by
  rw [← BitVec.ofNat_or, ← Nat.two_pow_add_eq_or_of_lt (i := 4) hv]

theorem headerByte_eq_add {a : Nat} (h : a ≤ 15) : headerByte a = BitVec.ofNat 8 (0x80 + a) :=
  ofNat_highNibble_or 8 (Nat.lt_succ_of_le h)

theorem zoomInByte_eq_add {z : Nat} (h : z ≤ 7) : 0x20#8 ||| BitVec.ofNat 8 z = BitVec.ofNat 8 (0x20 + z) :=
  ofNat_highNibble_or 2 (by omega)

theorem zoomOutByte_eq_add {z : Nat} (h : z ≤ 7) : 0x30#8 ||| BitVec.ofNat 8 z = BitVec.ofNat 8 (0x30 + z) :=
  ofNat_highNibble_or 3 (by omega)

theorem ofNat_ne_terminator {n : Nat} (h : n < 255) : BitVec.ofNat 8 n ≠ 0xFF#8 := by bv_omega

/-- The header of an address in its domain (R153): bits [7:4] are `1000`, bits [3:0] the address. -/
theorem headerByte_fields : ∀ a ≤ 15, 1 ≤ a →
    (headerByte a).extractLsb' 4 4 = 0b1000#4 ∧ ((headerByte a).extractLsb' 0 4).toNat = a ∧
      headerByte a ≠ 0x80#8 ∧ headerByte a ≠ frameEnd := by
  decide

/-! ### The form every frame shares (R153, R154) -/

/-- The bytes of a command between its header and its terminator. -/
def commandPayload (cmd : Command) : List Byte := (commandBytes cmd).tail.dropLast

theorem commandBytes_eq_header_payload_end {cmd : Command} (hk : refusedKindOf cmd = none) :
    ∃ a, (.address, a) ∈ commandFields cmd ∧ commandBytes cmd = headerByte a :: (commandPayload cmd ++ [frameEnd]) := by
  cases cmd with
  | noLayout k args => cases hk
  | _ => exact ⟨_, List.mem_cons_self, rfl⟩

theorem commandLength_eq_length {cmd : Command} (hk : refusedKindOf cmd = none) :
    commandLength cmd = some (commandBytes cmd).length := by
  cases cmd with
  | noLayout k args => cases hk
  | _ => rfl

theorem commandLength_bounds {cmd : Command} {n : Nat} (h : commandLength cmd = some n) : 5 ≤ n ∧ n ≤ 9 := by
  cases cmd with
  | noLayout k args => cases k <;> cases h <;> decide
  | _ => cases h; decide

/-- No argument in its domain makes a byte 0xFF, and no fixed byte of a layout is one. -/
theorem commandPayload_ne_frameEnd {cmd : Command}
    (hf : ∀ fv ∈ commandFields cmd, fieldLo fv.1 ≤ fv.2 ∧ fv.2 ≤ fieldHi fv.1) :
    ∀ b ∈ commandPayload cmd, b ≠ frameEnd := by
  cases cmd with
  | up a p =>
    obtain ⟨-, hp⟩ : 1 ≤ p ∧ p ≤ 24 := hf (.panSpeed, p) (by simp [commandFields])
    simp [commandPayload, commandBytes, frameEnd, ofNat_ne_terminator (n := p) (by omega)]
  | zoomIn a z =>
    obtain ⟨-, hz⟩ : 0 ≤ z ∧ z ≤ 7 := hf (.zoomSpeed, z) (by simp [commandFields])
    simp [commandPayload, commandBytes, frameEnd, zoomInByte_eq_add hz, ofNat_ne_terminator (n := 0x20 + z) (by omega)]
  | zoomOut a z =>
    obtain ⟨-, hz⟩ : 0 ≤ z ∧ z ≤ 7 := hf (.zoomSpeed, z) (by simp [commandFields])
    simp [commandPayload, commandBytes, frameEnd, zoomOutByte_eq_add hz, ofNat_ne_terminator (n := 0x30 + z) (by omega)]
  | storePreset a i | recallPreset a i =>
    obtain ⟨-, hi⟩ : 0 ≤ i ∧ i ≤ 15 := hf (.presetIndex, i) (by simp [commandFields])
    simp [commandPayload, commandBytes, frameEnd, ofNat_ne_terminator (n := i) (by omega)]
  | _ => simp [commandPayload, commandBytes, frameEnd]

section
variable {cmd : Command} {bs : List Byte}

theorem frame_eq_header_payload_end (h : buildFrame cmd = .ok bs) :
    ∃ a, (.address, a) ∈ commandFields cmd ∧ 1 ≤ a ∧ a ≤ 15 ∧
      bs = headerByte a :: (commandPayload cmd ++ [frameEnd]) := by
  obtain ⟨hk, hf, rfl⟩ := buildFrame_ok_iff_bounds.1 h
  obtain ⟨a, ha, heq⟩ := commandBytes_eq_header_payload_end hk
  obtain ⟨hlo, hhi⟩ : 1 ≤ a ∧ a ≤ 15 := hf (.address, a) ha
  exact ⟨a, ha, hlo, hhi, heq⟩

theorem frame_length (h : buildFrame cmd = .ok bs) :
    commandLength cmd = some bs.length ∧ 5 ≤ bs.length ∧ bs.length ≤ 9 := by
  obtain ⟨hk, -, rfl⟩ := buildFrame_ok_iff_bounds.1 h
  have hlen := commandLength_eq_length hk
  exact ⟨hlen, commandLength_bounds hlen⟩

theorem frame_getLast (h : buildFrame cmd = .ok bs) : bs.getLast? = some frameEnd := by
  obtain ⟨a, -, -, -, rfl⟩ := frame_eq_header_payload_end h
  rw [← List.cons_append, List.getLast?_concat]

theorem frame_dropLast_ne_frameEnd (h : buildFrame cmd = .ok bs) : ∀ b ∈ bs.dropLast, b ≠ frameEnd := by
  obtain ⟨-, hf, -⟩ := buildFrame_ok_iff_bounds.1 h
  obtain ⟨a, -, hlo, hhi, rfl⟩ := frame_eq_header_payload_end h
  obtain ⟨-, -, -, hhead⟩ := headerByte_fields a hhi hlo
  rw [← List.cons_append, List.dropLast_concat]
  exact List.forall_mem_cons.2 ⟨hhead, commandPayload_ne_frameEnd hf⟩

/-- A command frame is a complete message (10_state.md R27) wherever the terminator is 0xFF and the capacity at least 8. -/
theorem frame_messageWf {c : Config} (hcap : 8 ≤ c.cap) (hterm : c.term = 0xFF#8) (h : buildFrame cmd = .ok bs) :
    MessageWf c bs := by
  obtain ⟨-, hmin, hmax⟩ := frame_length h
  rw [MessageWf, hterm, Config.msgMax]
  exact ⟨frame_getLast h, frame_dropLast_ne_frameEnd h, by omega, by omega⟩

end

/-! ### The round trip (R164) -/

/-- Bytes that store, then the terminator: one message, an empty buffer and no Overflow (40_framing.md R102, R103). -/
theorem frameBytes_append_term {c : Config} {buf body : List Byte} (hbody : ∀ b ∈ body, b ≠ c.term)
    (hl : buf.length + body.length ≤ c.cap) :
    frameBytes c buf false (body ++ [c.term]) =
      { buf := [], ovf := false, msgs := [buf ++ body ++ [c.term]], overflowed := false } := by
  induction body generalizing buf with
  | nil => rw [List.nil_append, frameBytes_cons_term rfl, List.append_nil]; rfl
  | cons b bs ih =>
    obtain ⟨hb, hbs⟩ := List.forall_mem_cons.1 hbody
    rw [List.length_cons] at hl
    have hroom : (buf ++ [b]).length + bs.length ≤ c.cap := by rw [List.length_append, List.length_singleton]; omega
    rw [List.cons_append, frameBytes_cons_store hb (by omega), ih hbs hroom, List.append_assoc buf, List.singleton_append]

theorem frameBytes_of_messageWf {c : Config} {m : Message} (h : MessageWf c m) :
    frameBytes c [] false m = { buf := [], ovf := false, msgs := [m], overflowed := false } := by
  obtain ⟨hlast, hbody, -, hlen⟩ := h
  have heq : m.dropLast ++ [c.term] = m := List.dropLast_append_getLast? c.term hlast
  have hroom : m.dropLast.length ≤ c.cap := by rw [List.length_dropLast]; exact Nat.sub_le_of_le_add hlen
  rw [← heq, frameBytes_append_term hbody (by simpa using hroom), heq, List.nil_append, heq]

/-- Framing undoes the concatenation of complete messages. -/
theorem frameBytes_flatten_of_messagesWf {c : Config} {ms : List Message} (h : ∀ m ∈ ms, MessageWf c m) :
    frameBytes c [] false ms.flatten = { buf := [], ovf := false, msgs := ms, overflowed := false } := by
  induction ms with
  | nil => rfl
  | cons m ms ih =>
    obtain ⟨hm, hms⟩ := List.forall_mem_cons.1 h
    rw [List.flatten_cons, frameBytes_append, frameBytes_of_messageWf hm, ih hms]
    rfl

/-- Settles O50: each frame is a complete message, framing undoes their concatenation, and the block under an eager sink runs the
framing function. -/
theorem commandFramesRoundTrip : Obligations.CommandFramesRoundTrip := by
  refine ⟨fun cmd bs h => ⟨frame_dropLast_ne_frameEnd h, ?_⟩, fun c cmds frames hcap hterm hbuilt => ?_⟩
  · obtain ⟨-, -, hmax⟩ := frame_length h
    exact hmax
  · have hwf : ∀ m ∈ frames, MessageWf c m := by
      intro m hm
      obtain ⟨cmd, -, hcmd⟩ := List.mem_map.1 (hbuilt ▸ List.mem_map_of_mem hm)
      exact frame_messageWf hcap hterm hcmd
    have hframed := frameBytes_flatten_of_messagesWf hwf
    refine ⟨hframed, fun s hs hout => ?_⟩
    obtain ⟨hovf, hlen⟩ := (State.logical_eq_empty_iff s).1 hs
    have hbuf : s.buf = [] := List.eq_nil_of_length_eq_zero hlen
    obtain ⟨kbuf, kovf, -, kdel, kover, -, -⟩ := eagerFeed_frames c frames.flatten hout
    rw [hbuf, hovf, hframed] at kbuf kovf kdel kover
    exact ⟨kdel, (State.logical_eq_empty_iff _).2 ⟨kovf, by rw [kbuf]; rfl⟩, kover⟩

/-! ### The header, the length and the terminator (R153, R154) -/

/-- Settles O47: the lengths by R154's table, and the form every frame shares. -/
theorem framesHaveHeaderLengthAndTerminator : Obligations.FramesHaveHeaderLengthAndTerminator := by
  refine ⟨fun a v args => ?_, fun cmd bs h => ?_⟩
  · refine ⟨rfl, rfl, ?_, rfl, rfl, rfl, rfl, rfl, rfl, rfl, rfl⟩
    show ∀ k ∈ _, refusedKindLength k = some 9
    decide
  · obtain ⟨a, ha, hlo, hhi, heq⟩ := frame_eq_header_payload_end h
    obtain ⟨hhigh, hlow, hne, hend⟩ := headerByte_fields a hhi hlo
    exact ⟨⟨a, _, ha, hlo, hhi, heq, ⟨hhigh, hlow⟩, hne, hend⟩, frame_getLast h, frame_length h⟩

/-! ### The layouts (R155, R158 to R162) -/

/-- The builder on a kind whose one field is the address. -/
theorem buildFrame_ok_iff_of_address {cmd : Command} {a : Nat} {bs : List Byte} (hk : refusedKindOf cmd = none)
    (hfields : commandFields cmd = [(.address, a)]) :
    buildFrame cmd = .ok bs ↔ (1 ≤ a ∧ a ≤ 15) ∧ bs = commandBytes cmd := by
  simp [buildFrame_ok_iff_bounds, hk, hfields, fieldLo, fieldHi]

/-- The builder on a kind with one field `f` after the address. -/
theorem buildFrame_ok_iff_of_address_field {cmd : Command} {a v : Nat} {f : Field} {bs : List Byte}
    (hk : refusedKindOf cmd = none) (hfields : commandFields cmd = [(.address, a), (f, v)]) :
    buildFrame cmd = .ok bs ↔ (1 ≤ a ∧ a ≤ 15) ∧ (fieldLo f ≤ v ∧ v ≤ fieldHi f) ∧ bs = commandBytes cmd := by
  simp [buildFrame_ok_iff_bounds, hk, hfields, fieldLo, fieldHi, and_assoc]

theorem argument_le_of_buildFrame_ok {cmd : Command} {a v : Nat} {f : Field} {bs : List Byte} (hk : refusedKindOf cmd = none)
    (hfields : commandFields cmd = [(.address, a), (f, v)]) (h : buildFrame cmd = .ok bs) :
    1 ≤ a ∧ a ≤ 15 ∧ v ≤ fieldHi f := by
  obtain ⟨⟨hlo, hhi⟩, ⟨-, hv⟩, -⟩ := (buildFrame_ok_iff_of_address_field hk hfields).1 h
  exact ⟨hlo, hhi, hv⟩

/-- Settles O46: the builder's bytes are the layout's, in which no OR carries. -/
theorem frameLayouts : Obligations.FrameLayouts := by
  refine ⟨fun a p hlo hhi hp hp' => ?_, fun a hlo hhi => ?_, fun a z hlo hhi hz => ?_, fun a i hlo hhi hi => ?_,
    fun a v bs => ⟨fun h => ?_, fun h => ?_, fun h => ?_, fun h => ?_⟩⟩
  · exact (buildFrame_ok_iff_of_address_field rfl rfl).2
      ⟨⟨hlo, hhi⟩, ⟨hp, hp'⟩, by simp [commandBytes, headerByte_eq_add hhi, frameEnd]⟩
  · refine ⟨?_, ?_, ?_, ?_, ?_⟩ <;>
      exact (buildFrame_ok_iff_of_address rfl rfl).2
        ⟨⟨hlo, hhi⟩, by simp [commandBytes, headerByte_eq_add hhi, frameEnd]⟩
  · have hdom : fieldLo .zoomSpeed ≤ z ∧ z ≤ fieldHi .zoomSpeed := ⟨Nat.zero_le z, hz⟩
    constructor
    · exact (buildFrame_ok_iff_of_address_field rfl rfl).2
        ⟨⟨hlo, hhi⟩, hdom, by simp [commandBytes, headerByte_eq_add hhi, zoomInByte_eq_add hz, frameEnd]⟩
    · exact (buildFrame_ok_iff_of_address_field rfl rfl).2
        ⟨⟨hlo, hhi⟩, hdom, by simp [commandBytes, headerByte_eq_add hhi, zoomOutByte_eq_add hz, frameEnd]⟩
  · have hdom : fieldLo .presetIndex ≤ i ∧ i ≤ fieldHi .presetIndex := ⟨Nat.zero_le i, hi⟩
    constructor <;>
      exact (buildFrame_ok_iff_of_address_field rfl rfl).2
        ⟨⟨hlo, hhi⟩, hdom, by simp [commandBytes, headerByte_eq_add hhi, frameEnd]⟩
  · obtain ⟨⟨hlo, hhi⟩, hv, -⟩ := (buildFrame_ok_iff_of_address_field rfl rfl).1 h
    exact ⟨hlo, hhi, hv⟩
  · obtain h | h := h <;> exact argument_le_of_buildFrame_ok (f := .zoomSpeed) rfl rfl h
  · obtain h | h := h <;> exact argument_le_of_buildFrame_ok (f := .presetIndex) rfl rfl h
  · obtain h | h | h | h | h := h <;> exact ((buildFrame_ok_iff_of_address rfl rfl).1 h).1

/-! ### RangeError and refused kinds (R151, R152, R163) -/

/-- Settles O48: the builder reports what the search for the first field outside finds. -/
theorem rangeErrorNamesTheFirstFieldOutside : Obligations.RangeErrorNamesTheFirstFieldOutside := by
  refine ⟨fun v => ?_, fun cmd hk => ⟨?_, fun f v lo hi => ?_, ?_⟩⟩
  · simp only [inDomain_iff, fieldLo, fieldHi, Nat.zero_le, true_and]
  · simp [buildFrame_ok_iff, hk, firstOutside_eq_none_iff]
  · simp only [buildFrame_rangeError_iff hk, firstOutside_eq_some_iff, ← exists_and_right, and_assoc]
  · cases cmd <;> simp [commandFields]

/-- Settles O49: the kind is looked at before its arguments (log entry 13). -/
theorem refusedKindsHaveNoFrame : Obligations.RefusedKindsHaveNoFrame := fun _ _ => ⟨rfl, rfl⟩

end Sys2Proof.Machine
end

section
/-! The block's one exception and its two notification levels (60_exceptions.md): every operation answers a next state (R202), the
cause code and the Overflow events (R200), the levels (R203), and one outcome per operation (R204): O21, O26, O30 and O32. -/

namespace Sys2Proof.Machine

/-- Settles O21. -/
theorem everyOperationCompletesOrHolds : Obligations.EveryOperationCompletesOrHolds := by
  refine fun i s => ⟨exists_exec_eq_next i s, fun hi => ?_⟩
  obtain rfl | rfl | rfl := hi <;> rfl

/-! ### The cause code (R200) -/

theorem feedCase_eq_overflow_iff {c : Config} {b : Byte} {s : State} :
    feedCase c b s = .overflow ↔ s.out = none ∧ s.ovf = false ∧ b ≠ c.term ∧ c.cap ≤ s.buf.length := by
  refine ⟨fun h => ?_, fun ⟨hout, ho, hb, hl⟩ => feedCase_overflow hout ho hb hl⟩
  unfold feedCase at h
  split_ifs at h with hout ho hb hl
  exact ⟨Option.not_isSome_iff_eq_none.1 hout, Bool.eq_false_iff.2 ho, hb, Nat.not_lt.1 hl⟩

theorem causeCode_eq_zero_or_one (c : Config) (i : Instr) (s : State) : causeCode c i s = 0 ∨ causeCode c i s = 1 := by
  cases i with
  | feed b =>
    rw [causeCode_feed_of_case rfl]
    split
    · exact .inr rfl
    · exact .inl rfl
  | nop | take | reset | status => exact .inl rfl

theorem causeCode_eq_one_iff {c : Config} {i : Instr} {s : State} :
    causeCode c i s = 1 ↔ ∃ b, i = .feed b ∧ s.out = none ∧ s.ovf = false ∧ b ≠ c.term ∧ c.cap ≤ s.buf.length := by
  cases i with
  | feed b => simp [causeCode, feedCase_eq_overflow_iff]
  | nop | take | reset | status => simp [causeCode]

/-- An operation with cause code 1 is a FEED in R104's case. -/
theorem exec_of_causeCode_eq_one {i : Instr} {s t : State} (h : exec i s = .next t) (hc : causeCode Config.hw i s = 1) :
    s.ovf = false ∧ ∃ b, i = .feed b ∧ t = ((s.record (.input b)).raiseOverflow).answer .nothing := by
  obtain ⟨b, rfl, hout, ho, hb, hl⟩ := causeCode_eq_one_iff.1 hc
  have ht : t = feedOp Config.hw b s := exec_next_iff.1 h
  exact ⟨ho, b, rfl, ht.trans (feedOp_overflow hout ho hb hl)⟩

theorem causeCode_eq_one_iff_ovf_rises {i : Instr} {s t : State} (h : exec i s = .next t) :
    causeCode Config.hw i s = 1 ↔ s.ovf = false ∧ t.ovf = true := by
  constructor
  · intro hc
    obtain ⟨ho, b, -, rfl⟩ := exec_of_causeCode_eq_one h hc
    exact ⟨ho, rfl⟩
  · rintro ⟨ho, hto⟩
    obtain ⟨b, hi, hout, hb, hl⟩ := exec_ovf_rises h ho hto
    exact causeCode_eq_one_iff.2 ⟨b, hi, hout, ho, hb, hl⟩

/-! ### The Overflow events of a history (R200) -/

/-- In OVERFLOWED no Overflow is due, and none becomes due before a RESET. -/
theorem Replay.readAll_overflowed_not_due {c : Config} {r q : Replay} {es : List Event} (hes : .reset ∉ es)
    (hr : r.ovf = true ∧ r.due = false) (h : r.readAll c es = some q) : q.ovf = true ∧ q.due = false := by
  refine Replay.readAll_keeps (P := fun r => r.ovf = true ∧ r.due = false) (fun r e q he hr h => ?_) hr h
  obtain ⟨hovf, hdue⟩ := hr
  cases h with
  | discard | msg | status => exact ⟨hovf, hdue⟩
  | terminate _ _ _ ho | store _ _ _ ho | full _ _ _ ho => simp [hovf] at ho
  | overflow hd => simp [hdue] at hd
  | reset => exact absurd he hes

theorem Replay.due_of_readAll_overflow {c : Config} {r q : Replay} {es : List Event}
    (h : r.readAll c (.overflow :: es) = some q) : r.due = true := by
  obtain ⟨p, hp, -⟩ := Replay.readAll_cons_eq_some.1 h
  cases Replay.reads_of_read hp with
  | overflow hd => exact hd

theorem reset_mem_between_overflows {c : Config} {s : State} {pre mid post : List Event} (h : TraceInv c s)
    (htrace : s.trace = pre ++ .overflow :: (mid ++ .overflow :: post)) : .reset ∈ mid := by
  rw [TraceInv, htrace] at h
  obtain ⟨r, -, h⟩ := Replay.readAll_append_eq_some.1 h
  obtain ⟨p, hp, h⟩ := Replay.readAll_cons_eq_some.1 h
  obtain ⟨q, hq, h⟩ := Replay.readAll_append_eq_some.1 h
  have hp_overflowed : p.ovf = true ∧ p.due = false := by
    cases Replay.reads_of_read hp
    exact ⟨rfl, rfl⟩
  by_contra hmid
  obtain ⟨-, hdue⟩ := Replay.readAll_overflowed_not_due hmid hp_overflowed hq
  simp [Replay.due_of_readAll_overflow h] at hdue

/-- Settles O26: the invariant bounds the buffer by CAP, so "at least CAP" is "CAP". -/
theorem overflowIsTheOnlyException : Obligations.OverflowIsTheOnlyException := by
  refine ⟨fun i s t hs h => ⟨causeCode_eq_zero_or_one _ i s, ?_, causeCode_eq_one_iff_ovf_rises h, ?_⟩,
    fun _ _ _ _ _ => reset_mem_between_overflows⟩
  · obtain ⟨⟨hlen, -⟩, -, -⟩ := hs
    rw [causeCode_eq_one_iff, hlen.ge_iff_eq]
  · intro b hi hc
    obtain ⟨-, b', hi', rfl⟩ := exec_of_causeCode_eq_one h hc
    obtain rfl : b = b' := Instr.feed.inj (hi.symm.trans hi')
    refine ⟨statusOvf_statusBits _ _ _, ?_, rfl, by simp, rfl⟩
    rw [statusState_statusWord, stateCode_eq_two_iff, State.logical_eq_overflowed_iff]
    rfl

/-! ### The notification levels (R203) -/

theorem outValid_eq_true_iff (s : State) : outValid s = true ↔ s.out ≠ none := Option.isSome_iff_ne_none

theorem outValid_eq_false_iff (s : State) : outValid s = false ↔ s.out = none :=
  Option.isSome_eq_false_iff.trans Option.isNone_iff_eq_none

theorem exec_empties_slot {i : Instr} {s t : State} (h : exec i s = .next t) (hs : s.out ≠ none) (ht : t.out = none) :
    i = .take ∨ i = .reset := by
  have heq := exec_next_iff.1 h
  cases i <;> subst heq
  case take => exact .inl rfl
  case reset => exact .inr rfl
  case feed b =>
    rw [feedOp_of_out_ne_none hs] at ht
    exact absurd ht hs
  all_goals exact absurd ht hs

/-- Settles O30: in OVERFLOWED the invariant has the slot empty. -/
theorem notificationLevels : Obligations.NotificationLevels := by
  simp only [Obligations.NotificationLevels, outValid_eq_true_iff, outValid_eq_false_iff]
  refine ⟨fun i s t h => ⟨exec_fills_slot h, exec_empties_slot h, fun ho hto => ?_, exec_ovf_falls h⟩, fun s => ?_, ?_⟩
  · obtain ⟨b, hi, -, hb, hl⟩ := exec_ovf_rises h ho hto
    exact ⟨b, hi, hb, hl⟩
  · exact ⟨(statusMsgp_statusBits _ _ _).symm, (statusOvf_statusBits _ _ _).symm⟩
  · rintro s ⟨-, -, hovf⟩ ⟨hfull, ho⟩
    obtain ⟨-, hout⟩ := hovf ho
    exact hfull hout

/-! ### One outcome per operation (R204) -/

theorem feedOp_keeps_of_buf_length_lt {c : Config} {b : Byte} {s : State} (h : s.buf.length < (feedOp c b s).buf.length) :
    (feedOp c b s).out = s.out ∧ (feedOp c b s).ovf = s.ovf := by
  obtain ⟨-, heq⟩ | ⟨-, -, heq⟩ | ⟨-, -, -, heq⟩ | ⟨-, -, -, -, heq⟩ | ⟨-, -, -, -, heq⟩ := feedOp_cases c b s
  case inr.inr.inr.inl => simp [heq]
  all_goals simp [heq] at h

/-- Only a FEED that stores its byte lengthens the buffer. -/
theorem exec_keeps_of_buf_length_lt {i : Instr} {s t : State} (h : exec i s = .next t) (hlt : s.buf.length < t.buf.length) :
    t.out = s.out ∧ t.ovf = s.ovf := by
  have heq := exec_next_iff.1 h
  cases i <;> subst heq
  case feed b => exact feedOp_keeps_of_buf_length_lt hlt
  all_goals simp at hlt

/-- Settles O32: a message is emitted by FEED of the terminator, an Overflow is raised by FEED of another byte. -/
theorem oneOutcomePerOperation : Obligations.OneOutcomePerOperation := by
  refine fun i s t h => ⟨?_, ?_⟩
  · rintro ⟨hout, htout, ho, hto⟩
    have hi := exec_fills_slot h hout htout
    obtain ⟨b, hi', -, hb, -⟩ := exec_ovf_rises h ho hto
    exact hb (Instr.feed.inj (hi'.symm.trans hi))
  · rintro ⟨hlt, hchange⟩
    obtain ⟨hout, hovf⟩ := exec_keeps_of_buf_length_lt h hlt
    exact hchange.elim (· hout) (· hovf)

end Sys2Proof.Machine
end

section
/-! RESET in the middle of a message and the end of a run (70_reset_and_hazards.md R233, R235, R236, R238). An issuer is stuck on an
operation that holds while no other issuer has one to come that lifts the hold; every step keeps that, for FEED and for TAKE by the
same argument: O60, O57, O58 and O45. -/

namespace Sys2Proof.Machine

/-! ### The words still to come (R238) -/

theorem Stream.head?_remaining (st : Stream) : st.remaining.head? = st.next := List.head?_drop

theorem Stream.mem_remaining_of_next {st : Stream} {w : Word} (h : st.next = some w) : w ∈ st.remaining :=
  List.mem_of_head? (st.head?_remaining.trans h)

theorem Stream.remaining_advance (st : Stream) : st.advance.remaining = st.remaining.tail := List.tail_drop.symm

/-- A step uses up words and adds none. -/
theorem step_remaining_suffix {s t : State} (h : step s = .next t) (a : Agent) :
    (t.stream a).remaining <:+ (s.stream a).remaining := by
  by_cases ha : a = s.mover
  · subst ha
    rw [step_stream_mover h]
    split
    · rw [Stream.remaining_advance]
      exact List.tail_suffix _
    · exact List.suffix_rfl
  · rw [step_stream_other h ha]

theorem State.othersHave_eq_false_iff {s : State} {a : Agent} {p : Instr → Bool} :
    s.othersHave a p = false ↔ ∀ b ≠ a, ∀ w ∈ (s.stream b).remaining, ∀ i, decode w = .op i → p i = false := by
  simp only [State.othersHave, List.any_eq_false, Bool.and_eq_true, decide_eq_true_eq, not_and, Agent.mem_all, true_imp_iff,
    Bool.not_eq_true]
  refine forall₂_congr fun b _ => forall₂_congr fun w _ => ?_
  cases decode w <;> simp

/-- What no other issuer has to come, none has after a step. -/
theorem step_othersHave_eq_false {s t : State} {a : Agent} {p : Instr → Bool} (h : step s = .next t)
    (hs : s.othersHave a p = false) : t.othersHave a p = false := by
  rw [State.othersHave_eq_false_iff] at hs ⊢
  exact fun b hb w hw => hs b hb w ((step_remaining_suffix h b).subset hw)

/-! ### Stuck on an operation (R233, R238) -/

/-- Whether the second operation lifts the first one's hold: R101's for FEED, R108's for TAKE; the control family never holds
(41_control.md R130). -/
def liftsHold : Instr → Instr → Bool
  | .feed _ => liftsFeed
  | .take => liftsTake Config.hw
  | .nop | .reset | .status => fun _ => false

/-- Issuer `a`'s next operation is `j`, it holds, and no other issuer has an operation to come that lifts its hold. -/
structure State.StuckOn (s : State) (a : Agent) (j : Instr) : Prop where
  nextOp : s.nextOp a = some j
  held : enabled j s = false
  noLift : s.othersHave a (liftsHold j) = false

theorem State.stuckTest_eq_any (s : State) (a : Agent) :
    s.stuckTest a = (s.nextOp a).any fun j => !enabled j s && !s.othersHave a (liftsHold j) := by
  cases hj : s.nextOp a with
  | none => simp [State.stuckTest, hj]
  | some j => cases j <;> simp [State.stuckTest, hj, enabled, liftsHold]

theorem State.stuckTest_eq_true_iff {s : State} {a : Agent} : s.stuckTest a = true ↔ ∃ j, s.StuckOn a j := by
  simp only [State.stuckTest_eq_any, Option.any_eq_true, Bool.and_eq_true, Bool.not_eq_true']
  exact exists_congr fun j => ⟨fun ⟨hj, hoff, hlift⟩ => ⟨hj, hoff, hlift⟩, fun ⟨hj, hoff, hlift⟩ => ⟨hj, hoff, hlift⟩⟩

theorem State.StuckOn.holds {s : State} {a : Agent} {j : Instr} (h : s.StuckOn a j) : s.holds a = true := by
  simp [State.holds, h.nextOp, h.held]

theorem enabled_congr {s t : State} (h : t.out = s.out) (i : Instr) : enabled i t = enabled i s := by
  cases i <;> simp [enabled, h]

theorem liftsHold_self (i : Instr) : liftsHold i i = false := by cases i <;> rfl

/-- Only TAKE and RESET empty the slot that FEED waits for, and only FEED of the terminator fills the one TAKE waits for. -/
theorem exec_out_of_not_liftsHold {i j : Instr} {s t : State} (h : exec i s = .next t) (hoff : enabled j s = false)
    (hlift : liftsHold j i = false) : t.out = s.out := by
  cases j with
  | feed b =>
    have hfull : s.out ≠ none := fun hout => by simp [(enabled_feed_iff b s).2 hout] at hoff
    have ht := exec_next_iff.1 h
    cases i <;> subst ht
    case nop => rfl
    case feed b' => rw [feedOp_of_out_ne_none hfull, State.held_out]
    case take => cases hlift
    case reset => cases hlift
    case status => rfl
  | take =>
    have hempty : s.out = none := by simpa [enabled] using hoff
    by_contra hne
    rw [hempty] at hne
    obtain rfl := exec_fills_slot h hempty hne
    simp [liftsHold, liftsTake] at hlift
  | nop => cases hoff
  | reset => cases hoff
  | status => cases hoff

/-- Whoever moves, the operation of the step is `a`'s held one or one that does not lift its hold. -/
theorem State.StuckOn.not_liftsHold {s : State} {a : Agent} {i j : Instr} (h : s.StuckOn a j)
    (hi : s.nextOp s.mover = some i) : liftsHold j i = false := by
  by_cases ha : s.mover = a
  · obtain rfl : j = i := Option.some.inj (h.nextOp.symm.trans (ha ▸ hi))
    exact liftsHold_self j
  · obtain ⟨w, hw, hd⟩ := s.nextWord_of_nextOp_mover hi
    exact State.othersHave_eq_false_iff.1 h.noLift _ ha w (Stream.mem_remaining_of_next hw) i hd

theorem State.StuckOn.step_out {s t : State} {a : Agent} {j : Instr} (h : s.StuckOn a j) (hstep : step s = .next t) :
    t.out = s.out := by
  obtain ⟨-, rfl⟩ | ⟨w, i, u, hw, hd, hu, rfl⟩ := step_next hstep
  · rfl
  · obtain ⟨-, -, hout, -⟩ := settle_block s.mover i s u
    have hlift : liftsHold j i = false := h.not_liftsHold (State.nextOp_mover_of_nextWord hw hd)
    have hexec : u.out = s.dropTurn.out := exec_out_of_not_liftsHold hu ((enabled_dropTurn j s).trans h.held) hlift
    exact hout.trans hexec

theorem State.StuckOn.step_stream {s t : State} {a : Agent} {j : Instr} (h : s.StuckOn a j) (hstep : step s = .next t) :
    t.stream a = s.stream a := by
  by_cases ha : a = s.mover
  · subst ha
    simp [step_stream_mover hstep, h.nextOp, h.held]
  · exact step_stream_other hstep ha

theorem State.StuckOn.step {s t : State} {a : Agent} {j : Instr} (h : s.StuckOn a j) (hstep : step s = .next t) :
    t.StuckOn a j where
  nextOp := (State.nextOp_congr (h.step_stream hstep)).trans h.nextOp
  held := (enabled_congr (h.step_out hstep) j).trans h.held
  noLift := step_othersHave_eq_false hstep h.noLift

/-- Settles O60: what the issuer is stuck on, it is stuck on after the step. -/
theorem stepKeepsStuckIssuer : Obligations.StepKeepsStuckIssuer := by
  intro s t a hs hstep
  obtain ⟨j, hj⟩ := State.stuckTest_eq_true_iff.1 hs
  have ht := hj.step hstep
  exact ⟨State.stuckTest_eq_true_iff.2 ⟨j, ht⟩, ht.holds, hj.step_stream hstep, hj.step_out hstep⟩

/-- The test does not look at the schedule. -/
theorem State.StuckOn.withSched {s : State} {a : Agent} {j : Instr} (h : s.StuckOn a j) (sched : List Agent) :
    ({ s with sched := sched } : State).StuckOn a j where
  nextOp := h.nextOp
  held := h.held
  noLift := h.noLift

/-- Settles O57: every step of a run keeps the issuer stuck on its operation. -/
theorem stuckTestFindsStuckRuns : Obligations.StuckTestFindsStuckRuns := by
  intro s a hs sched k t hrun
  obtain ⟨j, hj⟩ := State.stuckTest_eq_true_iff.1 hs
  have ht : t.StuckOn a j := run_keeps_of_step_keeps (fun _ _ => State.StuckOn.step) k (hj.withSched sched) hrun
  exact ht.holds

/-! ### The end of a run (R238) -/

theorem State.ended_eq_true_iff (s : State) : s.ended = true ↔ ∀ a, (s.stream a).remaining = [] := by
  simp [State.ended]

theorem State.nextWord_of_ended {s : State} (h : s.ended = true) : s.nextWord = none := by
  rw [State.nextWord, ← Stream.head?_remaining, s.ended_eq_true_iff.1 h, List.head?_nil]

theorem State.idle_ended {s : State} (h : s.ended = true) : s.idle.ended = true := by
  rw [State.ended_eq_true_iff] at h ⊢
  exact fun a => (congrArg Stream.remaining (s.stream_dropTurn a)).trans (h a)

/-- Settles O58: every further step is idle. -/
theorem endedRunKeepsTheBlock : Obligations.EndedRunKeepsTheBlock := by
  intro s k hs
  induction k generalizing s with
  | zero => exact ⟨s, rfl, rfl, rfl, rfl, rfl, hs⟩
  | succ k ih =>
    rw [core_run_succ k (step_of_no_word (State.nextWord_of_ended hs))]
    exact ih s.idle (State.idle_ended hs)

/-! ### RESET in the middle of a message (R235, R236) -/

/-- Settles O45: RESET empties the buffer and the slot and delivers nothing, and from there the tail and TERM frame to one
message. -/
theorem resetInMidMessageEmitsTheTail : Obligations.ResetInMidMessageEmitsTheTail := by
  intro s r tail hreset htail hlen
  obtain rfl : r = resetOp s := exec_next_iff.1 hreset
  have hframe : frameBytes Config.hw [] false (tail ++ [Config.hw.term]) =
      { buf := [], ovf := false, msgs := [tail ++ [Config.hw.term]], overflowed := false } :=
    frameBytes_append_term htail (by simpa using hlen)
  have hdelivered : delivered (resetOp s).trace = delivered s.trace := by simp [delivered_append]
  obtain ⟨hbuf, hovf, hout, hdel, -, -, -⟩ :=
    eagerFeed_frames Config.hw (tail ++ [Config.hw.term]) (resetOp_out s)
  rw [resetOp_buf, resetOp_ovf, hframe] at hbuf hovf hdel
  rw [hdelivered] at hdel
  exact ⟨hdel, (State.logical_eq_empty_iff _).2 ⟨hovf, by rw [hbuf]; rfl⟩, hout⟩

end Sys2Proof.Machine
end
